-- ==== Sys2Proof/Word.lean ====
section
/-! DEFINITION. The plain word types of the HX30: bytes of frames and payloads, and values of the
time base. Everything that computes on them stands in Machine/ (Operands.lean, Ops.lean). -/

namespace Sys2Proof

/-- Eight data bits: a byte of a roster-port frame or the data bits of a link word (R201). -/
abbrev Byte := BitVec 8

/-- A value of the time base, a 32-bit microsecond count that wraps (R52). -/
abbrev Stamp := BitVec 32

end Sys2Proof
end

