-- ==== Sys2Proof/Syntax.lean ====
section
/-! DEFINITION. The commands of the HX30: one constructor of `Instr` for each row of
spec/opcode_table.json, with the row's operands. A host request carries its arguments as the roster
port delivers them, byte fields as bytes (R20, R201), so that values outside the valid ranges can be
sent and are refused by the owning rule. -/

namespace Sys2Proof

/-- A position index in position order: A1 = 0 … A10 = 9, B1 = 10 … C10 = 29 (R20). -/
abbrev Pos := Fin 30

/-- A fibre channel number, 0 to 31. -/
abbrev Chan := Fin 32

/-- The three eligible codes: the cell codes that may have a common cause (R55). -/
inductive Eligible where
  | dcOver
  | dcUnder
  | overtemp
  deriving DecidableEq, Repr

/-- The four ways a bad uplink frame arises (R42). A line word holds the twelve samples of one word,
bit time t in bit t (R31, R201). -/
inductive BadKind where
  /-- a partial frame closed by this marker word, which opens the next frame (R32) -/
  | interrupted (word : BitVec 12)
  /-- this continuation word arrived with no frame open (R33) -/
  | stray (word : BitVec 12)
  /-- a complete frame that was condemned (R33) -/
  | condemned
  /-- a complete frame whose checksum failed (R34) -/
  | checksum
  deriving DecidableEq, Repr

/-- The commands: the 24 host requests, the port's transactions, the resets, and the events of the
cell links, the intake, the switch matrix, the engine, the publisher and the winder lines. -/
inductive Instr where
  -- host requests (R179, R21 to R29, R50, R193 to R198, R142 to R147, R117, R115, R181, R182, R191, R184)
  | nop (tag : Byte)
  | lookup (tag position : Byte)
  | findChannel (tag channel : Byte)
  | findSerial (tag : Byte) (serial : BitVec 32)
  | list (tag stateCode : Byte)
  | linkStatus (tag channel : Byte)
  | enrol (tag position channel : Byte) (serial : BitVec 32) (tally : Byte)
  | retire (tag position : Byte)
  | readmit (tag position : Byte)
  | clearTally (tag kind index : Byte)
  | setParam (tag number : Byte) (value : BitVec 32)
  | getParam (tag number : Byte)
  | start (tag : Byte)
  | loadShift (tag h i j : Byte) (hi ij jh fsh : BitVec 16)
  | dropShift (tag h i j : Byte)
  | readShift (tag selector a b c : Byte)
  | loadScale (tag attempt direction ramp proving : Byte)
  | readScale (tag attempt direction : Byte)
  | summary (tag : Byte)
  | clearLockout (tag : Byte)
  | ack (tag flags : Byte)
  | setMask (tag enables : Byte)
  | readCause (tag : Byte)
  | reset
  -- transactions of the roster port (R170 to R173)
  | transactionBegin
  | transactionEnd (mosi : List Bool)
  | answerReady
  -- resets (R187, R188)
  | powerOnReset
  | pinReset
  | resetEnd
  -- cell links (R34, R42, R44, R47)
  | uplinkFrame (channel : Chan) (b0 b1 b2 b3 b4 : Byte)
  | badFrame (channel : Chan) (kind : BadKind)
  | silenceDetected (channel : Chan)
  | downlinkBoundary
  -- fault intake (R63, R65)
  | windowExpiry (position : Pos)
  | groupClose (code : Eligible)
  -- bypass switch matrix (R70, R79 to R87)
  | scanDwellEnd (senseA senseB senseC : Bool)
  | holdOffExpiry (position : Pos)
  | entryGrant
  | pulseEnd
  | closeTimeout
  | openTimeout
  | recoveryEnd
  -- winder lines and engine timers (R95 to R104)
  | energizedRising
  | energizedFalling
  | estopNFalling
  | brakeSetRising
  | brakeWaitExpiry
  | graceExpiry
  -- publication and verification (R155 to R164)
  | setFrameSent
  | adoptionFrame (generation : BitVec 16)
  | adoptionDeadlineExpiry
  | minimumTimerExpiry
  | verificationDeadlineExpiry
  -- proving, running time (R110 to R112, R16, R17)
  | provenRising
  | provingDeadlineExpiry
  | cleanRunSecond
  | cleanRunEnd
  | runningTimeSecond
  | probationComplete (position : Pos)
  -- words on the serial lines (R31, R156), the brake's release, loss of supply (R190)
  | uplinkWord (channel : Chan) (word : BitVec 12)
  | adoptionWord (word : BitVec 10) (afterIdle : Bool)
  | brakeSetFalling
  | supplyLoss
  deriving DecidableEq, Repr

end Sys2Proof
end

