-- ==== Sys2Proof/Config.lean ====
section
/-! DEFINITION. What is fixed in the part, and the free values: choices the spec leaves open, held as
constants without a body, so that no proof can lean on a value of theirs. -/

namespace Sys2Proof.Config

/-- The order in which events that meet at one moment are taken is left open by the spec ("either may
be first", R116, R186, R200). The n-th free choice among the events due at one moment: an
uninterpreted number, taken modulo the number of events due. DESIGN CHOICE, assumption 3. -/
opaque eventChoice : Nat → Nat

/-- The direction a RESTART pass reads where no DIR has been sampled. R129 says that a RESTART pass
always has a sampled DIR, so no run reaches this; the value is free. DESIGN CHOICE, assumption 12. -/
opaque unsampledDir : Bool

/-- The n-th byte on MISO, by the time base, in a transaction that stood open when a reset ended: the port
does not take it (R185), the line is driven (12.1), and no rule says what it carries. DESIGN CHOICE,
assumption 26. -/
opaque untakenMiso : Nat → Nat → BitVec 8

/-- Agreeing reads that settle a contact (R71, R192). -/
def debounceReads : Nat := 3

/-- Strobe dwell of the contact scan, in microseconds (R70, R192). -/
def dwellMicros : Nat := 1000

/-- The downlink period, in microseconds (R47, R192). -/
def downlinkMicros : Nat := 50

/-- Score at which a receiver is degraded, and its ceiling (R42, R43). -/
def errorLimit : Nat := 32
def errorCeiling : Nat := 63

/-- The longest preparation of an answer, in microseconds (R170, R192). -/
def answerMicros : Nat := 4

/-- Shift-table capacity (R139). -/
def shiftCapacity : Nat := 64

/-- Consecutive agreeing samples that qualify a winder input (R204). -/
def qualifySamples : Nat := 5

/-- One second of the running-time accruals, in microseconds (R16, R112). -/
def secondMicros : Nat := 1000000

end Sys2Proof.Config
end

