-- ==== Sys2Proof/Machine/State.lean ====
section
/-! DEFINITION. The state of the HX30, all of it plain data, block by block in the order of the spec's
block diagram (00_scope 3), and its value right after a reset. A field the spec calls conditional
("present while …") is an `Option`. Outputs that are functions of this state (TRIP_N, BRAKE_HOLD,
PROVE_EN, ATTN_N, RSEL, FIRE, the two indexes of R2) are computed in Ops.lean and Flags.lean and are
not stored twice. -/

namespace Sys2Proof.Machine

/-! ## Why a step could stop

Every command of the table has an effect in every state, so no meaning stops. -/

/-- Reasons to stop with a fault: none. The spec names no condition that stops the part, and no
command accesses an address that could be absent. -/
inductive Fault
  deriving DecidableEq, Repr

/-- Reasons to refuse a command. -/
inductive Refusal where
  /-- Raised by `exec` for a row that has no meaning yet; no arm raises it now. Safe: nothing can be
  proved of the command. -/
  | notModelled (mnemonic : String)
  deriving DecidableEq, Repr

/-! ## The cell roster (R1 to R4, R16) -/

/-- The nine record states (R1). -/
inductive RecordState where
  | empty
  | inService
  | parked
  | probation
  | faulted
  | closing
  | bypassed
  | opening
  | quarantined
  deriving DecidableEq, Repr

/-- Codes a cell reports, as decoded (R35). -/
inductive CellCode where
  | none
  | dcOver
  | dcUnder
  | overtemp
  | desat
  | gateSupply
  | inputFuse
  | control
  deriving DecidableEq, Repr

/-- Fault causes (R1, R55). -/
inductive FaultCause where
  | dcOver
  | dcUnder
  | overtemp
  | desat
  | gateSupply
  | inputFuse
  | control
  | linkLost
  | linkDegraded
  | contactClosed
  | contactOpen
  | verifyFail
  deriving DecidableEq, Repr

/-- The settled contact of a position (R71). -/
inductive Contact where
  | unsettled
  | opened
  | closed
  deriving DecidableEq, Repr

/-- One record of the roster (R1). The channel and serial tag are what the two indexes of R2 are
read from. -/
structure Record where
  state : RecordState
  channel : Option Chan
  serial : Option (BitVec 32)
  tally : Nat
  cause : Option FaultCause
  stamp : Option Stamp
  closeFailed : Bool
  contact : Contact
  voltage : Option Nat
  temperature : Option Int
  reported : Option CellCode
  cleanRun : Option Nat
  offset : Option Nat
  probation : Option Nat
  prior : Option RecordState
  deriving DecidableEq, Repr

/-! ## Cell links (R30, R51) -/

inductive LinkState where
  | silent
  | live
  deriving DecidableEq, Repr

/-- An open uplink frame: the data bits of one to four words, and the condemned mark (R30). -/
structure OpenFrame where
  words : List Byte
  condemned : Bool
  deriving DecidableEq, Repr

/-- A receiver (R30). The silence timer is held as the stamp it measures from. -/
structure Receiver where
  link : LinkState
  score : Nat
  lastSeq : Option (BitVec 4)
  degraded : Bool
  frame : Option OpenFrame
  silence : Option Stamp
  deriving DecidableEq, Repr

/-- A transmitter (R30): downlink sequence, fault-reset latch, and the data byte of the frame begun at
the last boundary, absent when the line was left idle (R47). -/
structure Transmitter where
  seq : BitVec 4
  faultReset : Bool
  sent : Option Byte
  deriving DecidableEq, Repr

structure Link where
  rx : Receiver
  tx : Transmitter
  deriving DecidableEq, Repr

/-! ## Fault intake (R62, R64, R68) -/

/-- An open provisional fault (R62). -/
structure Provisional where
  pos : Pos
  code : Eligible
  stamp : Stamp
  deriving DecidableEq, Repr

/-- An open common-cause group (R64). -/
structure Group where
  code : Eligible
  members : List Pos
  latest : Stamp
  deriving DecidableEq, Repr

structure Intake where
  provisionals : List Provisional
  groups : List Group
  deriving DecidableEq, Repr

/-! ## Bypass switch matrix (R70, R71, R75, R80) -/

/-- The kind of an entry or pulse: CLOSE or OPEN (R75). -/
inductive SwitchKind where
  | toClose
  | toOpen
  deriving DecidableEq, Repr

/-- An entry of the switch order list (R75). `holdOffRun` notes that the hold-off has run out (R79:
an entry that is eligible stays eligible). -/
structure Entry where
  pos : Pos
  kind : SwitchKind
  stamp : Stamp
  holdOff : Bool
  holdOffRun : Bool
  hold : Bool
  deriving DecidableEq, Repr

/-- The firing unit (R80): the pulse's start, or the pulse's end, from which the confirm deadline and
the recovery run. -/
inductive FiringUnit where
  | idle
  | firing (pos : Pos) (kind : SwitchKind) (since : Stamp)
  | settling (pos : Pos) (kind : SwitchKind) (ended : Stamp) (recovered : Bool)
  | recovering (ended : Stamp)
  deriving DecidableEq, Repr

/-- The debounce state of a position beside its settled value (R71): the candidate, true for CLOSED,
and the agree count. -/
structure Debounce where
  candidate : Option Bool
  agree : Nat
  deriving DecidableEq, Repr

/-- The matrix. `pointer` is the rank less one; `dwell` is the start of the dwell in progress, absent
while a pulse is in flight (R73). -/
structure Matrix where
  pointer : Fin 10
  dwell : Option Stamp
  debounce : Vector Debounce 30
  orders : List Entry
  unit : FiringUnit
  deriving DecidableEq, Repr

/-! ## Restart engine (R92, R107, R113) -/

/-- The ten engine states (R92). -/
inductive EngineState where
  | config
  | dormant
  | charging
  | halted
  | bypassing
  | publishing
  | verifying
  | proving
  | running
  | lockout
  deriving DecidableEq, Repr

inductive PassKind where
  | cold
  | restart
  deriving DecidableEq, Repr

/-- Pass outcomes (R107). -/
inductive PassOutcome where
  | completeCold
  | completeRestart
  | endedByFault
  | endedByVerify
  | endedByProveTimeout
  | endedByLockout
  | abandoned
  deriving DecidableEq, Repr

/-- The pass record (R107). -/
structure Pass where
  kind : PassKind
  attempt : Nat
  outcome : Option PassOutcome
  deriving DecidableEq, Repr

/-- Lockout causes (R113). -/
inductive LockoutCause where
  | estop
  | attempts
  | brakeTimeout
  | countLow
  | ratingLow
  | modulator
  | switchFail
  | commonCause
  deriving DecidableEq, Repr

/-- The clean-run countdown with its accrual (R112). -/
structure CleanRun where
  remaining : Nat
  accrual : Nat
  deriving DecidableEq, Repr

/-- The engine (R92). The three timers are held as the stamps they measure from. DIR is true for
LOWER. -/
structure Engine where
  state : EngineState
  attempts : Nat
  sampledManride : Option Bool
  sampledDir : Option Bool
  passToCome : Option PassKind
  pass : Option Pass
  passCurrent : Bool
  cause : Option LockoutCause
  grace : Option Stamp
  brakeWait : Option Stamp
  proving : Option Stamp
  cleanRun : Option CleanRun
  deriving DecidableEq, Repr

/-! ## Rebalancer (R135) and rating tables (R139, R145) -/

inductive PolicyUsed where
  | equalize
  | shift
  deriving DecidableEq, Repr

/-- A key of the shift table: the sorted counts (R124, R140). -/
structure Key where
  h : Nat
  i : Nat
  j : Nat
  deriving DecidableEq, Repr

/-- The rebalance result record (R135). -/
structure Result where
  kind : PassKind
  attempt : Nat
  policy : PolicyUsed
  countA : Nat
  countB : Nat
  countC : Nat
  key : Option Key
  miss : Bool
  phiB : Nat
  phiC : Nat
  ratio : Nat
  speed : Nat
  ramp : Nat
  proving : Nat
  deriving DecidableEq, Repr

/-- An entry of the shift table (R139). -/
structure ShiftEntry where
  key : Key
  hi : Nat
  ij : Nat
  jh : Nat
  fsh : Nat
  deriving DecidableEq, Repr

/-- An entry of the attempt scale table (R145). -/
structure ScaleEntry where
  ramp : Nat
  proving : Nat
  deriving DecidableEq, Repr

/-- The tables: shift entries in ascending key order, and 16 scale entries, the entry of attempt a
and direction d (0 HOIST, 1 LOWER) at 2 (a − 1) + d. -/
structure Tables where
  shift : List ShiftEntry
  scale : Vector ScaleEntry 16
  deriving DecidableEq, Repr

/-! ## Publisher (R151) -/

/-- A set frame being sent: its words, and when its first word started. -/
structure Sending where
  frame : List Byte
  since : Stamp
  deriving DecidableEq, Repr

/-- The publisher (R151). The set transmitter is IDLE when `sending` is absent. The three timers are
held as the stamps they measure from. -/
structure Publisher where
  published : BitVec 16
  adopted : BitVec 16
  sending : Option Sending
  queued : Option (List Byte)
  frameSent : Option Bool
  adoptDeadline : Option Stamp
  receiver : Option (List Byte)
  verified : Option (List Pos)
  minTimer : Option Stamp
  minElapsed : Bool
  verDeadline : Option Stamp
  deriving DecidableEq, Repr

/-! ## Roster port (R170, R178, R180, R185, R189) -/

/-- Answer codes (R178). -/
inductive AnswerCode where
  | done
  | clamped
  | badFrame
  | unknownRequest
  | badArgument
  | wrongMode
  | wrongState
  | duplicate
  | full
  | notFound
  | notSettled
  | incomplete
  | none
  deriving DecidableEq, Repr

/-- An answer less its status byte and CRC, which are formed when a transaction takes it (R171). `acked`
holds the flags that an ACK executed at the present moment has named: set again at that moment, they
stand set in its answer (R181). It is 0x00 in every other answer, and from the next moment on. -/
structure Answer where
  code : AnswerCode
  tag : Byte
  payload : List Byte
  acked : Byte := 0x00
  deriving DecidableEq, Repr

/-- The port states (R170), with the CS_N rising from which the preparation runs, and in EARLY whether
the answer has become ready. -/
inductive PortState where
  | ready
  | preparing (since : Stamp)
  | serving
  | early (since : Stamp) (answerReady : Bool)
  deriving DecidableEq, Repr

inductive ResetCause where
  | powerOn
  | pin
  | request
  deriving DecidableEq, Repr

/-- The reset-cause record (R189). -/
structure ResetRecord where
  cause : ResetCause
  engine : Option EngineState
  pulseCut : Bool
  deriving DecidableEq, Repr

/-- The port: its state, the pending answer (absent once a transaction has taken it), the bytes MISO
carries in the open transaction, the flags, the mask, and the reset-cause record. -/
structure Port where
  state : PortState
  answer : Option Answer
  miso : List Byte
  flags : Byte
  mask : Byte
  resetRecord : ResetRecord
  deriving DecidableEq, Repr

/-! ## Parameters (R192) -/

/-- The 26 parameters, each in the unit R192 carries it in, in the order of their numbers. -/
structure Params where
  nRated : Nat
  nMin : Nat
  sFloor : Nat
  mV : Nat
  rBase : Nat
  aLim : Nat
  aMan : Nat
  qLim : Nat
  kClean : Nat
  vLo : Nat
  vHi : Nat
  policy : Nat
  tHO : Nat
  tCC : Nat
  tFW : Nat
  tREC : Nat
  tBC : Nat
  tSIL : Nat
  tWAKE : Nat
  tBRK : Nat
  tADOPT : Nat
  tVMIN : Nat
  tVER : Nat
  tPRV : Nat
  tCLEAN : Nat
  tPROB : Nat
  deriving DecidableEq, Repr

/-! ## Input lines (R90, R204) -/

/-- A winder input (R204): the level presented at the pin, the qualified level (absent until the first
five samples after a reset agree), and the last sample with the number of samples in a row that
agree on it. -/
structure Line where
  pin : Bool
  qualified : Option Bool
  sample : Bool
  count : Nat
  deriving DecidableEq, Repr

/-- The six winder inputs; ESTOP_N as the pin's level (low is stop), DIR high for LOWER. -/
structure Lines where
  energized : Line
  estopN : Line
  brakeSet : Line
  proven : Line
  manride : Line
  dir : Line
  deriving DecidableEq, Repr

/-- The three sense lines; high is a closed contact (R201). -/
structure Sense where
  a : Bool
  b : Bool
  c : Bool
  deriving DecidableEq, Repr

/-! ## The whole part -/

/-- Whether the part runs, is held in a reset (R188), or has lost its supply (R190). -/
inductive Mode where
  | running
  | held (cause : ResetCause)
  | off
  deriving DecidableEq, Repr

/-- The state of the part, with the queue of commands that are waiting. `choices` is the MODEL's own
counter of free choices taken (Config.eventChoice). -/
structure State where
  mode : Mode
  time : Stamp
  lines : Lines
  sense : Sense
  csN : Bool
  params : Params
  roster : Vector Record 30
  accrual : Nat
  links : Vector Link 32
  downlinkSince : Stamp
  intake : Intake
  matrix : Matrix
  engine : Engine
  result : Option Result
  tables : Tables
  publisher : Publisher
  port : Port
  choices : Nat
  pending : List Instr
  deriving DecidableEq, Repr

/-! ## Values after a reset -/

/-- An EMPTY record with an UNSETTLED contact (R4). -/
def Record.initial : Record where
  state := .empty
  channel := none
  serial := none
  tally := 0
  cause := none
  stamp := none
  closeFailed := false
  contact := .unsettled
  voltage := none
  temperature := none
  reported := none
  cleanRun := none
  offset := none
  probation := none
  prior := none

/-- A SILENT receiver with score 0, and a transmitter with sequence 0 (R51). -/
def Link.initial : Link where
  rx := { link := .silent, score := 0, lastSeq := none, degraded := false, frame := none, silence := none }
  tx := { seq := 0, faultReset := false, sent := none }

/-- No provisional fault and no group (R68). -/
def Intake.initial : Intake where
  provisionals := []
  groups := []

/-- Pointer at rank 1, nothing settled, the list empty and the unit IDLE (R74, R89). -/
def Matrix.initial : Matrix where
  pointer := 0
  dwell := some 0
  debounce := Vector.replicate 30 { candidate := none, agree := 0 }
  orders := []
  unit := .idle

/-- CONFIG with attempt count 0 and everything conditional absent (R92, R118). -/
def Engine.initial : Engine where
  state := .config
  attempts := 0
  sampledManride := none
  sampledDir := none
  passToCome := none
  pass := none
  passCurrent := false
  cause := none
  grace := none
  brakeWait := none
  proving := none
  cleanRun := none

/-- Empty shift table, every scale entry 32 and 100 (R149). -/
def Tables.initial : Tables where
  shift := []
  scale := Vector.replicate 16 { ramp := 32, proving := 100 }

/-- Both generations 0, nothing sent, received or timed (R168). -/
def Publisher.initial : Publisher where
  published := 0
  adopted := 0
  sending := none
  queued := none
  frameSent := none
  adoptDeadline := none
  receiver := none
  verified := none
  minTimer := none
  minElapsed := false
  verDeadline := none

/-- The answer that stands after every reset (R185). -/
def Answer.afterReset : Answer where
  code := .none
  tag := 0
  payload := []

/-- READY with the NONE answer, flags clear, every flag enabled (R185). -/
def Port.initial (record : ResetRecord) : Port where
  state := .ready
  answer := some Answer.afterReset
  miso := []
  flags := 0x00
  mask := 0xFF
  resetRecord := record

/-- The parameters at their defaults (R192). -/
def Params.initial : Params where
  nRated := 6
  nMin := 4
  sFloor := 2000
  mV := 500
  rBase := 600
  aLim := 3
  aMan := 1
  qLim := 3
  kClean := 16
  vLo := 600
  vHi := 820
  policy := 0
  tHO := 5
  tCC := 2000
  tFW := 80
  tREC := 300
  tBC := 200
  tSIL := 400
  tWAKE := 50
  tBRK := 2000
  tADOPT := 20
  tVMIN := 200
  tVER := 3000
  tPRV := 5
  tCLEAN := 120
  tPROB := 1800

/-- A winder input presented at a level, nothing sampled since the reset (R204). -/
def Line.presented (level : Bool) : Line where
  pin := level
  qualified := none
  sample := level
  count := 0

/-- The winder lines at rest. The levels are the outside's, not the part's: DESIGN CHOICE,
assumption 2. -/
def Lines.atRest : Lines where
  energized := .presented false
  estopN := .presented true
  brakeSet := .presented false
  proven := .presented false
  manride := .presented false
  dir := .presented false

/-- Right after a power-on reset has ended: every block at its after-reset values (R187, R188), the
input pins at rest (assumption 2), nothing pending. -/
def State.reset : State where
  mode := .running
  time := 0
  lines := Lines.atRest
  sense := { a := false, b := false, c := false }
  csN := true
  params := Params.initial
  roster := Vector.replicate 30 Record.initial
  accrual := 0
  links := Vector.replicate 32 Link.initial
  downlinkSince := 0
  intake := Intake.initial
  matrix := Matrix.initial
  engine := Engine.initial
  result := none
  tables := Tables.initial
  publisher := Publisher.initial
  port := Port.initial { cause := .powerOn, engine := none, pulseCut := false }
  choices := 0
  pending := []

end Sys2Proof.Machine
end

