-- ==== Sys2Proof/Machine/Operands.lean ====
section
/-! DEFINITION. Operand forms: line words and frames (R31, R35, R153, R201), the check codes (R202,
R203), the codes of coded items and the widths of payload items (R201). -/

namespace Sys2Proof.Machine

/-! ## Check codes (R202, R203) -/

/-- One bit into the CRC-8 register (R202). -/
def crc8Bit (reg : BitVec 8) (bit : Bool) : BitVec 8 :=
  if (bit ^^ reg.getLsbD 7) then (reg <<< 1) ^^^ 0x07 else reg <<< 1

/-- One byte into the CRC-8 register, bit 0 first (R202). -/
def crc8Byte (reg : BitVec 8) (b : Byte) : BitVec 8 :=
  (List.range 8).foldl (fun r i => crc8Bit r (b.getLsbD i)) reg

/-- The CRC-8 of the cell links and the roster port (R202). -/
def crc8 (bytes : List Byte) : Byte := bytes.foldl crc8Byte 0x00

/-- One bit into the CRC-16 register (R203). -/
def crc16Bit (reg : BitVec 16) (bit : Bool) : BitVec 16 :=
  if (bit ^^ reg.getLsbD 15) then (reg <<< 1) ^^^ 0x1021 else reg <<< 1

/-- One byte into the CRC-16 register, bit 0 first (R203). -/
def crc16Byte (reg : BitVec 16) (b : Byte) : BitVec 16 :=
  (List.range 8).foldl (fun r i => crc16Bit r (b.getLsbD i)) reg

/-- The CRC-16 of the modulation link (R203). -/
def crc16 (bytes : List Byte) : BitVec 16 := bytes.foldl crc16Byte 0xFFFF

/-! ## Byte order (R201): every field wider than a byte goes most significant byte first -/

def byteOf (n : Nat) : Byte := BitVec.ofNat 8 n

def bytes2 (n : Nat) : List Byte := [byteOf (n / 256), byteOf n]

def bytes4 (n : Nat) : List Byte :=
  [byteOf (n / 16777216), byteOf (n / 65536), byteOf (n / 256), byteOf n]

def word16 (hi lo : Byte) : BitVec 16 := hi ++ lo

def word32 (a b c d : Byte) : BitVec 32 := a ++ b ++ c ++ d

/-! ## Line words -/

/-- The data bits of an uplink word: bit times 1 to 8, least significant first (R31, R201). -/
def lineData (w : BitVec 12) : Byte := w.extractLsb' 1 8

/-- The marker bit, bit time 9 (R31, R201). -/
def lineMarker (w : BitVec 12) : Bool := w.getLsbD 9

/-- Parity is right when data, marker and parity bits together hold an even number of ones (R31). -/
def parityRight (w : BitVec 12) : Bool :=
  !(List.range 10).foldl (fun p t => p ^^ w.getLsbD (t + 1)) false

/-- A word is faulty when its parity is wrong or its stop bit, bit time 11, reads low (R31). -/
def lineFaulty (w : BitVec 12) : Bool := !parityRight w || !w.getLsbD 11

/-- The twelve bit times of a word as it is sent: start low, data, marker, even parity, stop high
(R31, R201). -/
def lineWord (data : Byte) (marker : Bool) : BitVec 12 :=
  let ones := (List.range 8).foldl (fun p t => p ^^ data.getLsbD t) marker
  let bit (b : Bool) : BitVec 1 := if b then 1#1 else 0#1
  ((((1#1 ++ bit ones) ++ bit marker) ++ data) ++ 0#1 : BitVec 12)

/-- The ten bit times of a modulation-link word as it is sent: start low, data least significant bit first,
stop high (R152, R201). -/
def modWord (data : Byte) : BitVec 10 := (1#1 ++ data) ++ 0#1

/-- The bits of a run of words, each word from its bit time 0 on. -/
def wordsBits {n : Nat} (words : List (BitVec n)) : List Bool :=
  words.flatMap fun w => (List.range n).map fun t => w.getLsbD t

/-- The level of a serial line in bit time t of a run of words begun at 0: every serial line idles high, and
so after the run's last word (12.1, R201). -/
def lineLevel {n : Nat} (words : List (BitVec n)) (t : Nat) : Bool := (wordsBits words).getD t true

/-- The data bits of a modulation-link word: start bit, eight data bits least significant first, stop
bit; a word whose stop bit reads low is taken as received (R152, R201). -/
def modData (w : BitVec 10) : Byte := w.extractLsb' 1 8

/-! ## Uplink frame fields (R35, R201) -/

/-- The decoded fault code; 8 to 15 decode as CONTROL (R35). -/
def decodeCode (n : Nat) : CellCode :=
  match n with
  | 0 => .none
  | 1 => .dcOver
  | 2 => .dcUnder
  | 3 => .overtemp
  | 4 => .desat
  | 5 => .gateSupply
  | 6 => .inputFuse
  | _ => .control

/-- The decoded temperature: byte less 40 °C, byte values above 190 give +150 °C (R35). -/
def decodeTemperature (b : Byte) : Int := if b.toNat ≤ 190 then (b.toNat : Int) - 40 else 150

/-- The fields of a valid uplink frame. -/
structure UplinkFields where
  seq : BitVec 4
  code : CellCode
  voltage : Nat
  temperature : Int
  deriving DecidableEq, Repr

/-- Sequence in word 0 bits 3 … 0, fault code in bits 7 … 4, voltage bits 7 … 0 in word 1 and 9 … 8 in
bits 1 … 0 of word 2, temperature in word 3 (R35, R201). -/
def decodeUplink (b0 b1 b2 b3 : Byte) : UplinkFields where
  seq := b0.extractLsb' 0 4
  code := decodeCode (b0.extractLsb' 4 4).toNat
  voltage := (b2.toNat % 4) * 256 + b1.toNat
  temperature := decodeTemperature b3

/-! ## Downlink frame (R47, R201) -/

/-- Word 0 of a downlink frame: fault reset in bit 5, gate permit in bit 4, sequence in bits 3 … 0. -/
def downlinkByte (permit faultReset : Bool) (seq : BitVec 4) : Byte :=
  byteOf ((if faultReset then 32 else 0) + (if permit then 16 else 0) + seq.toNat)

/-- The two line words of a downlink frame (R47, R201). -/
def downlinkWords (data : Byte) : List (BitVec 12) :=
  [lineWord data true, lineWord (crc8 [data]) false]

/-! ## Codes of coded items (R1, R107, R113, R178, R189, R201) -/

def RecordState.code : RecordState → Nat
  | .empty => 0
  | .inService => 1
  | .parked => 2
  | .probation => 3
  | .faulted => 4
  | .closing => 5
  | .bypassed => 6
  | .opening => 7
  | .quarantined => 8

def RecordState.ofCode : Nat → Option RecordState
  | 0 => some .empty
  | 1 => some .inService
  | 2 => some .parked
  | 3 => some .probation
  | 4 => some .faulted
  | 5 => some .closing
  | 6 => some .bypassed
  | 7 => some .opening
  | 8 => some .quarantined
  | _ => none

def CellCode.code : CellCode → Nat
  | .none => 0
  | .dcOver => 1
  | .dcUnder => 2
  | .overtemp => 3
  | .desat => 4
  | .gateSupply => 5
  | .inputFuse => 6
  | .control => 7

def FaultCause.code : FaultCause → Nat
  | .dcOver => 1
  | .dcUnder => 2
  | .overtemp => 3
  | .desat => 4
  | .gateSupply => 5
  | .inputFuse => 6
  | .control => 7
  | .linkLost => 8
  | .linkDegraded => 9
  | .contactClosed => 10
  | .contactOpen => 11
  | .verifyFail => 12

def Contact.code : Contact → Nat
  | .unsettled => 0
  | .opened => 1
  | .closed => 2

def LinkState.code : LinkState → Nat
  | .silent => 0
  | .live => 1

def EngineState.code : EngineState → Nat
  | .config => 0
  | .dormant => 1
  | .charging => 2
  | .halted => 3
  | .bypassing => 4
  | .publishing => 5
  | .verifying => 6
  | .proving => 7
  | .running => 8
  | .lockout => 9

def PassKind.code : PassKind → Nat
  | .cold => 0
  | .restart => 1

def PassOutcome.code : PassOutcome → Nat
  | .completeCold => 1
  | .completeRestart => 2
  | .endedByFault => 3
  | .endedByVerify => 4
  | .endedByProveTimeout => 5
  | .endedByLockout => 6
  | .abandoned => 7

def LockoutCause.code : LockoutCause → Nat
  | .estop => 1
  | .attempts => 2
  | .brakeTimeout => 3
  | .countLow => 4
  | .ratingLow => 5
  | .modulator => 6
  | .switchFail => 7
  | .commonCause => 8

def PolicyUsed.code : PolicyUsed → Nat
  | .equalize => 0
  | .shift => 1

def ResetCause.code : ResetCause → Nat
  | .powerOn => 1
  | .pin => 2
  | .request => 3

def AnswerCode.code : AnswerCode → Nat
  | .done => 0x01
  | .clamped => 0x02
  | .badFrame => 0x03
  | .unknownRequest => 0x04
  | .badArgument => 0x05
  | .wrongMode => 0x06
  | .wrongState => 0x07
  | .duplicate => 0x08
  | .full => 0x09
  | .notFound => 0x0A
  | .notSettled => 0x0B
  | .incomplete => 0x0C
  | .none => 0x0D

def bitCode (b : Bool) : Nat := if b then 1 else 0

/-! ## Payload items (R201): a conditional item is a presence byte, then the value, zero when absent -/

def item1 (n : Nat) : List Byte := [byteOf n]

def cond1 : Option Nat → List Byte
  | some n => [0x01, byteOf n]
  | none => [0x00, 0x00]

def cond2 : Option Nat → List Byte
  | some n => 0x01 :: bytes2 n
  | none => [0x00, 0x00, 0x00]

def cond4 : Option Nat → List Byte
  | some n => 0x01 :: bytes4 n
  | none => [0x00, 0x00, 0x00, 0x00, 0x00]

/-- The payload of LOOKUP: every field of R1 in the order of R1's table (R21). -/
def recordPayload (p : Pos) (r : Record) : List Byte :=
  item1 p.val ++ item1 r.state.code ++ cond1 (r.channel.map (·.val)) ++ cond4 (r.serial.map (·.toNat))
    ++ item1 r.tally ++ cond1 (r.cause.map (·.code)) ++ cond4 (r.stamp.map (·.toNat))
    ++ item1 (bitCode r.closeFailed) ++ item1 r.contact.code ++ cond2 r.voltage
    ++ cond1 (r.temperature.map fun t => (t + 40).toNat) ++ cond1 (r.reported.map (·.code))
    ++ cond1 r.cleanRun ++ cond2 r.offset ++ cond2 r.probation ++ cond1 (r.prior.map (·.code))

/-- The result record's items in the order of R135's table; the key is one conditional item. -/
def resultItems (r : Result) : List Byte :=
  item1 r.kind.code ++ item1 r.attempt ++ item1 r.policy.code ++ item1 r.countA ++ item1 r.countB
    ++ item1 r.countC
    ++ (match r.key with
        | some k => [0x01, byteOf k.h, byteOf k.i, byteOf k.j]
        | none => [0x00, 0x00, 0x00, 0x00])
    ++ item1 (bitCode r.miss) ++ bytes2 r.phiB ++ bytes2 r.phiC ++ bytes2 r.ratio ++ bytes2 r.speed
    ++ bytes2 r.ramp ++ item1 r.proving

/-- The result record as one conditional item of SUMMARY (R117): 22 value bytes, zero when absent. -/
def resultPayload : Option Result → List Byte
  | some r => 0x01 :: resultItems r
  | none => List.replicate 23 0x00

/-! ## Set frame (R153, R201) -/

/-- The pairs of one phase: its count, then rank and carrier offset of each record listed. -/
def pairWords (pairs : List (Nat × Nat)) : List Byte :=
  byteOf pairs.length :: pairs.flatMap fun (rank, offset) => byteOf rank :: bytes2 offset

/-- The words of a set frame before its CRC words. -/
def setFrameBody (generation : BitVec 16) (r : Result) (pairsA pairsB pairsC : List (Nat × Nat)) :
    List Byte :=
  [0xA5] ++ bytes2 generation.toNat ++ item1 r.kind.code ++ bytes2 r.ratio ++ bytes2 r.speed
    ++ bytes2 r.ramp ++ item1 r.proving ++ bytes2 r.phiB ++ bytes2 r.phiC
    ++ pairWords pairsA ++ pairWords pairsB ++ pairWords pairsC

/-- A whole set frame, closed by the CRC-16 over every preceding word. -/
def setFrame (generation : BitVec 16) (r : Result) (pairsA pairsB pairsC : List (Nat × Nat)) :
    List Byte :=
  let body := setFrameBody generation r pairsA pairsB pairsC
  body ++ bytes2 (crc16 body).toNat

/-! ## Roster-port frames (R169, R173, R201) -/

/-- Eight MOSI samples, most significant bit first, as a byte (R169, R201). -/
def byteOfBits (b7 b6 b5 b4 b3 b2 b1 b0 : Bool) : Byte :=
  byteOf (bitCode b7 * 128 + bitCode b6 * 64 + bitCode b5 * 32 + bitCode b4 * 16 + bitCode b3 * 8
    + bitCode b2 * 4 + bitCode b1 * 2 + bitCode b0)

/-- The whole bytes of a transaction; fewer than eight bits left over are discarded (R169). -/
def mosiBytes : List Bool → List Byte
  | b7 :: b6 :: b5 :: b4 :: b3 :: b2 :: b1 :: b0 :: rest =>
    byteOfBits b7 b6 b5 b4 b3 b2 b1 b0 :: mosiBytes rest
  | _ => []

/-- A byte as the eight samples that carry it on MOSI or MISO (R201). -/
def byteBits (b : Byte) : List Bool := (List.range 8).map fun i => b.getLsbD (7 - i)

/-- An answer as it stands with flags set: an ACK's shows the flags it named that are set again at its own
moment (R181), every other answer is as prepared (R175). -/
def Answer.settled (flags : Byte) (a : Answer) : Answer :=
  { a with payload := a.payload.map (· ||| (flags &&& a.acked)), acked := 0x00 }

/-- The answer frame: status byte, answer code, tag, payload length, payload, CRC-8 (R171, R201). -/
def answerFrame (status : Byte) (a : Answer) : List Byte :=
  let body := status :: byteOf a.code.code :: a.tag :: byteOf a.payload.length :: a.payload
  body ++ [crc8 body]

end Sys2Proof.Machine
end

