-- ==== Sys2Proof/Machine/Fields.lean ====
section
/-! DEFINITION. One update for each field of the state: every change of the state below is made with
these, so that what an update leaves alone is said once, in Laws/State.lean. -/

namespace Sys2Proof.Machine

def State.setMode (s : State) (m : Mode) : State := { s with mode := m }
def State.setTime (s : State) (t : Stamp) : State := { s with time := t }
def State.setLines (s : State) (l : Lines) : State := { s with lines := l }
def State.setSense (s : State) (l : Sense) : State := { s with sense := l }
def State.setCsN (s : State) (level : Bool) : State := { s with csN := level }
def State.setParams (s : State) (ps : Params) : State := { s with params := ps }
def State.setRoster (s : State) (v : Vector Record 30) : State := { s with roster := v }
def State.setAccrual (s : State) (n : Nat) : State := { s with accrual := n }
def State.setLinks (s : State) (v : Vector Link 32) : State := { s with links := v }
def State.setDownlinkSince (s : State) (t : Stamp) : State := { s with downlinkSince := t }
def State.setIntake (s : State) (i : Intake) : State := { s with intake := i }
def State.setMatrix (s : State) (m : Matrix) : State := { s with matrix := m }
def State.setEngine (s : State) (e : Engine) : State := { s with engine := e }
def State.setResult (s : State) (r : Option Result) : State := { s with result := r }
def State.setTables (s : State) (t : Tables) : State := { s with tables := t }
def State.setPublisher (s : State) (p : Publisher) : State := { s with publisher := p }
def State.setPort (s : State) (p : Port) : State := { s with port := p }
def State.setChoices (s : State) (n : Nat) : State := { s with choices := n }
def State.setPending (s : State) (q : List Instr) : State := { s with pending := q }

end Sys2Proof.Machine
end

