-- ==== Sys2Proof/Machine/Flags.lean ====
section
/-! DEFINITION. The attention flags and ATTN_N (R180, R183), the status byte (R177) and the engine's
three outputs (R91). -/

namespace Sys2Proof.Machine

/-- The eight attention flags by their numbers (R180). -/
inductive Flag where
  | faultTaken
  | stateChange
  | restarted
  | lockedOut
  | tableMiss
  | strayFrame
  | switchDone
  | switchFail
  deriving DecidableEq, Repr

def Flag.number : Flag → Nat
  | .faultTaken => 0
  | .stateChange => 1
  | .restarted => 2
  | .lockedOut => 3
  | .tableMiss => 4
  | .strayFrame => 5
  | .switchDone => 6
  | .switchFail => 7

/-- The byte that names one flag: flag number n is bit n (R180). -/
def Flag.bit (f : Flag) : Byte := 0x01#8 <<< f.number

/-- Setting a flag; a flag already set stays set (R180). -/
def State.setFlag (s : State) (f : Flag) : State :=
  s.setPort { s.port with flags := s.port.flags ||| f.bit }

/-- Whether a flag stands set. -/
def State.hasFlag (s : State) (f : Flag) : Bool := s.port.flags.getLsbD f.number

/-- ATTN_N: low while at least one flag is set and enabled, released (high) otherwise (R183). -/
def State.attnN (s : State) : Bool := (s.port.flags &&& s.port.mask) == 0x00#8

/-- The status byte (R177, R201): bit 7 reads 1, answer ready, lockout, attention pending, engine
state. -/
def State.statusByte (s : State) (answerReady : Bool) : Byte :=
  byteOf (128 + bitCode answerReady * 64 + bitCode (s.engine.state == .lockout) * 32
    + bitCode (s.port.flags != 0x00#8) * 16 + s.engine.state.code)

/-- TRIP_N, released (high) in PROVING and RUNNING (R91). -/
def EngineState.tripN : EngineState → Bool
  | .proving | .running => true
  | .config | .dormant | .charging | .halted | .bypassing | .publishing | .verifying | .lockout => false

/-- BRAKE_HOLD, released (low) in RUNNING alone (R91). -/
def EngineState.brakeHold : EngineState → Bool
  | .running => false
  | .config | .dormant | .charging | .halted | .bypassing | .publishing | .verifying | .proving
  | .lockout => true

/-- PROVE_EN, asserted (high) in PROVING alone (R91). -/
def EngineState.proveEn : EngineState → Bool
  | .proving => true
  | .config | .dormant | .charging | .halted | .bypassing | .publishing | .verifying | .running
  | .lockout => false

/-- The engine's outputs at the pins; while a reset is held they stand at the levels of CONFIG, which
is the engine's state then (R91, R188). -/
def State.tripN (s : State) : Bool := s.engine.state.tripN
def State.brakeHold (s : State) : Bool := s.engine.state.brakeHold
def State.proveEn (s : State) : Bool := s.engine.state.proveEn

end Sys2Proof.Machine
end

