-- ==== Sys2Proof/Machine/Ops.lean ====
section
/-! DEFINITION. Named operations over the state: elapsed time and stamp order (R53), input levels
(R90, R204), positions, records and their indexes (R2), the switch order list (R75). -/

namespace Sys2Proof.Machine

/-! ## Time (R52, R53) -/

/-- Elapsed time at `now` since stamp `since`: (now − since) mod 2³² (R53). -/
def elapsed (now since : Stamp) : Nat := (now - since).toNat

/-- Stamp a is earlier than stamp b: (b − a) mod 2³² lies in 1 … 2³¹ − 1 (R53). -/
def earlier (a b : Stamp) : Bool := decide (1 ≤ (b - a).toNat ∧ (b - a).toNat ≤ 2147483647)

/-- The order of R53 on stamps with their positions: by stamp, and by position order where neither
stamp is earlier. -/
def before (a : Stamp) (p : Pos) (b : Stamp) (q : Pos) : Bool :=
  earlier a b || (!earlier b a && decide (p.val < q.val))

/-- A wait that began at `since`, if it runs, has reached `limit` microseconds. -/
def reached (now : Stamp) (since : Option Stamp) (limit : Nat) : Bool :=
  match since with
  | some t => decide (limit ≤ elapsed now t)
  | none => false

def millis (n : Nat) : Nat := n * 1000

/-! ## Input levels (R90, R204) -/

/-- The level a rule reads: the qualified level, and until the first five samples after a reset agree
the level presented (R204). -/
def Line.level (l : Line) : Bool := l.qualified.getD l.pin

/-- A change to a level that has been qualified: five samples agree on it (R204). -/
def Line.settle (level : Bool) : Line where
  pin := level
  qualified := some level
  sample := level
  count := Config.qualifySamples

/-- A change of the presented level alone, which a held reset does not read (R188). -/
def Line.present (l : Line) (level : Bool) : Line := { l with pin := level }

def State.energized (s : State) : Bool := s.lines.energized.level
def State.estopN (s : State) : Bool := s.lines.estopN.level
def State.brakeSet (s : State) : Bool := s.lines.brakeSet.level
def State.manride (s : State) : Bool := s.lines.manride.level
def State.dirLower (s : State) : Bool := s.lines.dir.level

/-- Running time passes while the engine is RUNNING and BRAKE_SET is low (00_scope 5, R16, R112). -/
def State.runningTime (s : State) : Bool := (s.engine.state == .running) && !s.brakeSet

/-! ## Positions (00_scope 4, R20) -/

/-- Every position, in position order. -/
def allPositions : List Pos := List.finRange 30

/-- Phase index: A = 0, B = 1, C = 2. -/
def phaseOf (p : Pos) : Nat := p.val / 10

/-- Rank, 1 to 10. -/
def rankOf (p : Pos) : Nat := p.val % 10 + 1

/-- The positions of one phase, in rank order. -/
def phasePositions (q : Nat) : List Pos := allPositions.filter fun p => phaseOf p == q

/-- The position of a phase index and a rank pointer (the rank less one). -/
def posAt (q : Fin 3) (r : Fin 10) : Pos := ⟨q.val * 10 + r.val, by omega⟩

/-- A position argument in its valid range (R20). -/
def posOfByte (b : Byte) : Option Pos := if h : b.toNat < 30 then some ⟨b.toNat, h⟩ else none

/-- A channel argument in its valid range (R20). -/
def chanOfByte (b : Byte) : Option Chan := if h : b.toNat < 32 then some ⟨b.toNat, h⟩ else none

/-! ## Records -/

/-- The candidate states IN_SERVICE, PARKED and PROBATION; such a record is active (R56, R120). -/
def RecordState.active : RecordState → Bool
  | .inService | .parked | .probation => true
  | .empty | .faulted | .closing | .bypassed | .opening | .quarantined => false

def State.record (s : State) (p : Pos) : Record := s.roster[p]

def State.setRecord (s : State) (p : Pos) (r : Record) : State := s.setRoster (s.roster.set p r)

/-- A change of every record at once. -/
def State.mapRecords (s : State) (f : Pos → Record → Record) : State :=
  s.setRoster (Vector.ofFn fun p => f p (s.record p))

/-- The positions whose records are in a state, in position order (R24). -/
def State.positionsIn (s : State) (st : RecordState) : List Pos :=
  allPositions.filter fun p => (s.record p).state == st

/-- The channel index: the position that holds a channel (R2). -/
def State.channelPos (s : State) (ch : Chan) : Option Pos :=
  allPositions.find? fun p => (s.record p).channel == some ch

/-- The serial index: the position whose record holds a tag (R2). -/
def State.serialPos (s : State) (tag : BitVec 32) : Option Pos :=
  allPositions.find? fun p => (s.record p).serial == some tag

/-! ## Links -/

def State.link (s : State) (ch : Chan) : Link := s.links[ch]

def State.setLink (s : State) (ch : Chan) (l : Link) : State := s.setLinks (s.links.set ch l)

def State.setRx (s : State) (ch : Chan) (r : Receiver) : State :=
  s.setLink ch { s.link ch with rx := r }

def State.setTx (s : State) (ch : Chan) (t : Transmitter) : State :=
  s.setLink ch { s.link ch with tx := t }

/-! ## The switch order list (R75 to R79) -/

def State.setOrders (s : State) (l : List Entry) : State :=
  s.setMatrix { s.matrix with orders := l }

def State.setUnit (s : State) (u : FiringUnit) : State :=
  s.setMatrix { s.matrix with unit := u }

/-- An entry at its place: ascending stamp order, position order among equal stamps (R75). -/
def insertEntry (e : Entry) : List Entry → List Entry
  | [] => [e]
  | x :: rest =>
    if before e.stamp e.pos x.stamp x.pos then e :: x :: rest else x :: insertEntry e rest

def State.listEntry (s : State) (e : Entry) : State := s.setOrders (insertEntry e s.matrix.orders)

/-- The list without the entry of a position and kind. -/
def withoutEntry (p : Pos) (k : SwitchKind) (l : List Entry) : List Entry :=
  l.filter fun e => !(e.pos == p && e.kind == k)

/-- An entry that the firing unit may grant (R79): a CLOSE entry whose hold is clear and whose
hold-off, if it has one, has run; an OPEN entry while the engine is DORMANT. -/
def Entry.eligible (e : Entry) (st : EngineState) : Bool :=
  match e.kind with
  | .toClose => !e.hold && (!e.holdOff || e.holdOffRun)
  | .toOpen => st == .dormant

/-- The oldest eligible entry in list order (R81). -/
def State.nextEligible (s : State) : Option Entry :=
  s.matrix.orders.find? fun e => e.eligible s.engine.state

/-! ## Matrix lines (R69) -/

/-- The rank-select line driven, as a rank 1 to 10: the pulse's rank while a pulse is in flight, the
pointer's rank during a dwell, none otherwise. -/
def State.rankSelect (s : State) : Option Nat :=
  match s.matrix.unit with
  | .firing p _ _ => some (rankOf p)
  | .idle | .settling _ _ _ _ | .recovering _ =>
    if s.matrix.dwell.isSome then some (s.matrix.pointer.val + 1) else none

/-- The fire line driven: the coil's kind and the phase index, during a pulse alone. -/
def State.fireLine (s : State) : Option (SwitchKind × Nat) :=
  match s.matrix.unit with
  | .firing p k _ => some (k, phaseOf p)
  | .idle | .settling _ _ _ _ | .recovering _ => none

/-! ## Classes of faults (R55) -/

/-- The eligible codes among the fault causes. -/
def FaultCause.eligible : FaultCause → Option Eligible
  | .dcOver => some .dcOver
  | .dcUnder => some .dcUnder
  | .overtemp => some .overtemp
  | .desat | .gateSupply | .inputFuse | .control | .linkLost | .linkDegraded | .contactClosed
  | .contactOpen | .verifyFail => none

/-- The fault cause of a cell code; NONE is no fault (R55). -/
def CellCode.cause : CellCode → Option FaultCause
  | .none => Option.none
  | .dcOver => some .dcOver
  | .dcUnder => some .dcUnder
  | .overtemp => some .overtemp
  | .desat => some .desat
  | .gateSupply => some .gateSupply
  | .inputFuse => some .inputFuse
  | .control => some .control

end Sys2Proof.Machine
end

