-- ==== Sys2Proof/Machine/Roster.lean ====
section
/-! DEFINITION. The roster's transitions for the notices of the other blocks (R5 to R18). -/

namespace Sys2Proof.Machine

/-- Close completion of a FAULTED or CLOSING record (R10): the tally rises, saturating at 15;
QUARANTINED at Q_LIM or more or with a probation remaining held, else BYPASSED; probation remaining and
prior state are removed. -/
def Record.closeCompleted (r : Record) (qLim : Nat) : Record :=
  if r.state = .faulted ∨ r.state = .closing then
    { r with
      tally := min 15 (r.tally + 1)
      state := if qLim ≤ min 15 (r.tally + 1) || r.probation.isSome then .quarantined else .bypassed
      probation := none
      prior := none }
  else r

def State.closeCompletion (s : State) (p : Pos) : State :=
  s.setRecord p ((s.record p).closeCompleted s.params.qLim)

/-- Fault taken against an active record (R5). -/
def Record.faultTaken (r : Record) (cause : FaultCause) (stamp : Stamp) (provisional : Bool) : Record :=
  { r with
    prior := if provisional then some r.state else r.prior
    state := .faulted
    offset := none
    cause := some cause
    stamp := some stamp }

/-- CONTACT_OPEN taken against a record out of service (R6): BYPASSED becomes FAULTED, QUARANTINED
stays; cause and stamp are set. -/
def Record.contactOpenTaken (r : Record) (stamp : Stamp) : Record :=
  { r with
    state := if r.state = .bypassed then .faulted else r.state
    cause := some .contactOpen
    stamp := some stamp }

/-- Fault made ordinary (R7). -/
def Record.madeOrdinary (r : Record) : Record :=
  if r.state = .faulted then { r with prior := none } else r

/-- Common-cause restoration (R8). -/
def Record.restored (r : Record) : Record :=
  match r.state, r.prior with
  | .faulted, some st => { r with state := st, prior := none }
  | _, _ => r

/-- Whether a restoration would act on the record (R8). -/
def Record.restorable (r : Record) : Bool := (r.state == .faulted) && r.prior.isSome

/-- Close granted with a pulse (R9). -/
def Record.closeGranted (r : Record) : Record :=
  if r.state = .faulted then { r with state := .closing, prior := none } else r

/-- Close timed out (R11). -/
def Record.closeTimedOut (r : Record) : Record :=
  if r.state = .closing then { r with state := .faulted, closeFailed := true } else r

/-- Open confirmed (R13). -/
def Record.openConfirmed (r : Record) (tPROB : Nat) : Record :=
  if r.state = .opening then { r with state := .probation, probation := some tPROB } else r

/-- Open withdrawn, or open timed out (R14). -/
def Record.openEnded (r : Record) : Record :=
  if r.state = .opening then { r with state := .bypassed } else r

/-- One record under a rebalance commit (R15): a parked candidate becomes PARKED without an offset;
any other candidate is unparked and given its offset; other records keep what they hold. -/
def Record.committed (r : Record) (parked : Bool) (offset : Nat) : Record :=
  if r.state.active then
    if parked then { r with state := .parked, offset := none }
    else
      { r with
        state := if r.state = .parked then (if r.probation.isSome then .probation else .inService)
                 else r.state
        offset := some offset }
  else r

/-- One running-time second at one record (R16). -/
def Record.secondPassed (r : Record) : Record :=
  if r.state = .probation then { r with probation := r.probation.map (· - 1) } else r

/-- Probation complete (R17). -/
def Record.probationCompleted (r : Record) : Record := { r with state := .inService, probation := none }

/-- The CONFIG follow (R18). -/
def Record.follow (r : Record) (closed : Bool) (qLim : Nat) : Record :=
  match r.state with
  | .inService =>
    if closed then { r with state := if qLim ≤ r.tally then .quarantined else .bypassed } else r
  | .bypassed => if closed then r else { r with state := .inService }
  | .empty | .parked | .probation | .faulted | .closing | .opening | .quarantined => r

/-- A record that holds the restart engine in BYPASSING (R10, R105): FAULTED without the close-failed
mark, or CLOSING. -/
def Record.holdsEngine (r : Record) : Bool :=
  ((r.state == .faulted) && !r.closeFailed) || (r.state == .closing)

end Sys2Proof.Machine
end

