-- ==== Sys2Proof/Machine/Rebalance.lean ====
section
/-! DEFINITION. The rebalancer's arithmetic, stages 1 to 7 (R119 to R133): pure functions of the
roster, the parameters and the tables, on integers, each division a floor. -/

namespace Sys2Proof.Machine

/-- The candidates of phase q, in rank order (R120). -/
def candidates (roster : Vector Record 30) (q : Nat) : List Pos :=
  (phasePositions q).filter fun p => roster[p].state.active

/-- The three counts (R120). -/
structure Counts where
  a : Nat
  b : Nat
  c : Nat
  deriving DecidableEq, Repr

def countsOf (roster : Vector Record 30) : Counts where
  a := (candidates roster 0).length
  b := (candidates roster 1).length
  c := (candidates roster 2).length

/-- The smallest count (R122). -/
def Counts.least (n : Counts) : Nat := min n.a (min n.b n.c)

def Counts.of (n : Counts) (q : Nat) : Nat := if q = 0 then n.a else if q = 1 then n.b else n.c

def Counts.allEqual (n : Counts) : Bool := n.a == n.b && n.b == n.c

/-- Stage 1: a count below N_MIN (R121). -/
def Counts.low (n : Counts) (nMin : Nat) : Bool := n.a < nMin || n.b < nMin || n.c < nMin

/-- Stage 2: F_eq (R122). -/
def equalizeRatio (m nRated : Nat) : Nat := min 10000 (10000 * m / nRated)

/-- The phases in slots h, i, j (R124). -/
inductive Slots where
  | abc
  | acb
  | bac
  | bca
  | cab
  | cba
  deriving DecidableEq, Repr

/-- Stage 3's sort: by count, descending, phases of equal count ordered A before B before C (R124). -/
def sortSlots (n : Counts) : Slots :=
  if n.b ≤ n.a ∧ n.c ≤ n.b then .abc
  else if n.c ≤ n.a ∧ n.b < n.c then .acb
  else if n.a < n.b ∧ n.c ≤ n.a then .bac
  else if n.c ≤ n.b ∧ n.a < n.c then .bca
  else if n.a < n.c ∧ n.b ≤ n.a then .cab
  else .cba

/-- The key: the counts in slots h, i, j (R124). -/
def keyOf (n : Counts) : Key :=
  match sortSlots n with
  | .abc => ⟨n.a, n.b, n.c⟩
  | .acb => ⟨n.a, n.c, n.b⟩
  | .bac => ⟨n.b, n.a, n.c⟩
  | .bca => ⟨n.b, n.c, n.a⟩
  | .cab => ⟨n.c, n.a, n.b⟩
  | .cba => ⟨n.c, n.b, n.a⟩

/-- The pair angles θ(A,B), θ(B,C), θ(C,A). -/
structure Angles where
  ab : Nat
  bc : Nat
  ca : Nat
  deriving DecidableEq, Repr

/-- Stage 4 under SHIFT: each pair angle is the entry angle of the slots its phases hold (R126). -/
def shiftAngles (o : Slots) (e : ShiftEntry) : Angles :=
  match o with
  | .abc => ⟨e.hi, e.ij, e.jh⟩
  | .acb => ⟨e.jh, e.ij, e.hi⟩
  | .bac => ⟨e.hi, e.jh, e.ij⟩
  | .bca => ⟨e.jh, e.hi, e.ij⟩
  | .cab => ⟨e.ij, e.jh, e.hi⟩
  | .cba => ⟨e.ij, e.hi, e.jh⟩

/-- Stage 4 under EQUALIZE (R126). -/
def equalAngles : Angles := ⟨12000, 12000, 12000⟩

/-- The shift-table lookup by key (R125, R150). -/
def findShift (table : List ShiftEntry) (k : Key) : Option ShiftEntry := table.find? fun e => e.key == k

/-- What stages 3 to 5 choose: policy used, key, miss flag, angles, ratio F. -/
structure Choice where
  policy : PolicyUsed
  key : Option Key
  miss : Bool
  angles : Angles
  ratio : Nat
  deriving DecidableEq, Repr

/-- Stages 3 and 4 (R123 to R127): the lookup runs only under SHIFT_PREFERRED with counts not all
equal; SHIFT is used when F_sh is F_eq or more. -/
def choose (n : Counts) (policy feq : Nat) (table : List ShiftEntry) : Choice :=
  if policy ≠ 0 ∨ n.allEqual then
    { policy := .equalize, key := none, miss := false, angles := equalAngles, ratio := feq }
  else
    match findShift table (keyOf n) with
    | none =>
      { policy := .equalize, key := some (keyOf n), miss := true, angles := equalAngles, ratio := feq }
    | some e =>
      if feq ≤ e.fsh then
        { policy := .shift, key := some (keyOf n), miss := false,
          angles := shiftAngles (sortSlots n) e, ratio := e.fsh }
      else
        { policy := .equalize, key := some (keyOf n), miss := false, angles := equalAngles, ratio := feq }

/-- Stage 5: the speed limit S (R127). -/
def speedLimit (ratio mV : Nat) : Nat := ratio * (10000 - mV) / 10000

/-- The place of a scale entry: attempts 9 to 15 use the entries of attempt 8 (R145). -/
def scaleIndex (attempt : Nat) (lower : Bool) : Fin 16 :=
  ⟨2 * (min 8 attempt - 1) + bitCode lower, by unfold bitCode; split <;> omega⟩

/-- Stage 5: the ramp scale and the proving level (R129). -/
def passScale (kind : PassKind) (attempt : Nat) (lower : Bool) (t : Tables) : ScaleEntry :=
  match kind with
  | .cold => { ramp := 64, proving := 0 }
  | .restart => t.scale[scaleIndex attempt lower]

/-- Stage 5: the ramp rate R (R129). -/
def rampRate (rBase scale : Nat) : Nat := rBase * scale / 64

/-- Candidate p is chosen for parking before candidate q: the higher tally, and among equal tallies
the higher rank (R130). -/
def parksBefore (roster : Vector Record 30) (p q : Pos) : Bool :=
  roster[q].tally < roster[p].tally || (roster[p].tally == roster[q].tally && rankOf q < rankOf p)

/-- Stage 6: a candidate of phase q is parked when fewer than n_q − m candidates come before it in the
order of R130. -/
def isParked (roster : Vector Record 30) (m : Nat) (p : Pos) : Bool :=
  let cs := candidates roster (phaseOf p)
  cs.contains p && decide ((cs.filter fun q => parksBefore roster q p).length < cs.length - m)

/-- The parked set: empty under SHIFT (R130). -/
def parkedSet (roster : Vector Record 30) (policy : PolicyUsed) (m : Nat) : List Pos :=
  match policy with
  | .shift => []
  | .equalize => allPositions.filter (isParked roster m)

/-- The modulating records of phase q, in rank order (R131). -/
def modulating (roster : Vector Record 30) (parked : List Pos) (q : Nat) : List Pos :=
  (candidates roster q).filter fun p => !parked.contains p

/-- β_k, k × 32768 / m_p to the nearest integer, halves up (R132). -/
def beta (k m : Nat) : Nat := (2 * k * 32768 + m) / (2 * m)

/-- σ_q, q × 32768 / (3 m_p) rounded in the same way (R132). -/
def sigma (q m : Nat) : Nat := (2 * q * 32768 + 3 * m) / (6 * m)

/-- Stage 7: the carrier offset of a modulating record, numbered by the modulating records of lower
rank in its phase (R131, R132). -/
def carrierOffset (roster : Vector Record 30) (parked : List Pos) (p : Pos) : Nat :=
  let ms := modulating roster parked (phaseOf p)
  beta (ms.filter fun q => rankOf q < rankOf p).length ms.length + sigma (phaseOf p) ms.length

/-- How the rebalance ends: a commit with the parked set, or a lockout request (R119). A missed lookup
is told in both cases, since TABLE_MISS stands under RATING_LOW (R125, R128). -/
inductive Rebalanced where
  | commit (result : Result) (parked : List Pos)
  | lockout (cause : LockoutCause) (miss : Bool)
  deriving DecidableEq, Repr

/-- Stages 1 to 6 and the new result record (R121 to R130, R135). -/
def rebalance (roster : Vector Record 30) (ps : Params) (t : Tables) (kind : PassKind) (attempt : Nat)
    (lower : Bool) : Rebalanced :=
  let n := countsOf roster
  if n.low ps.nMin then .lockout .countLow false
  else
    let c := choose n ps.policy (equalizeRatio n.least ps.nRated) t.shift
    let speed := speedLimit c.ratio ps.mV
    if speed < ps.sFloor then .lockout .ratingLow c.miss
    else
      let e := passScale kind attempt lower t
      .commit
        { kind := kind, attempt := attempt, policy := c.policy, countA := n.a, countB := n.b,
          countC := n.c, key := c.key, miss := c.miss, phiB := c.angles.ab,
          phiC := c.angles.ab + c.angles.bc, ratio := c.ratio, speed := speed,
          ramp := rampRate ps.rBase e.ramp, proving := e.proving }
        (parkedSet roster c.policy n.least)

/-- Stage 8 at the roster (R15, R134). -/
def State.commitRoster (s : State) (parked : List Pos) : State :=
  s.mapRecords fun p r => r.committed (parked.contains p) (carrierOffset s.roster parked p)

end Sys2Proof.Machine
end

