-- ==== Sys2Proof/Machine/Engine.lean ====
section
/-! DEFINITION. The shared operations that carry one event through the blocks, from the taking of a
fault to the engine's states: steps 1 to 4 of R59, the state change (R93), lockout (R113), the
rebalance and PUBLISHING entry (R106, R134, R158), the BYPASSING exit (R105), attempt accounting (R102)
and the fault notice (R100). Each is used by the events of the family files. -/

namespace Sys2Proof.Machine

/-! ## Taking a fault, steps 1 to 4 (R59) -/

/-- A CLOSE entry from the fault intake or the relisting (R76). -/
def State.listClose (s : State) (p : Pos) (stamp : Stamp) (holdOff hold : Bool) : State :=
  s.listEntry { pos := p, kind := .toClose, stamp := stamp, holdOff := holdOff, holdOffRun := false, hold := hold }

/-- An OPEN entry (R77). -/
def State.listOpen (s : State) (p : Pos) (stamp : Stamp) : State :=
  s.listEntry { pos := p, kind := .toOpen, stamp := stamp, holdOff := false, holdOffRun := false, hold := false }

/-- The window of a provisional fault opens at its stamp (R62). -/
def State.openWindow (s : State) (p : Pos) (code : Eligible) (stamp : Stamp) : State :=
  s.setIntake { s.intake with
    provisionals := s.intake.provisionals ++ [{ pos := p, code := code, stamp := stamp }] }

/-- Whether a fault of a cause is taken as provisional: an eligible cause with tCC above 0 (R55, R59). -/
def State.provisionalCode (s : State) (cause : FaultCause) : Option Eligible :=
  if s.params.tCC = 0 then none else cause.eligible

/-- Steps 1 to 4 of R59 for an active record: the window, the roster's R5, FAULT_TAKEN, and the close
completed at once or the CLOSE entry listed. -/
def State.applyFault (s : State) (p : Pos) (cause : FaultCause) (stamp : Stamp) : State :=
  let prov := s.provisionalCode cause
  let s1 := match prov with
    | some code => s.openWindow p code stamp
    | none => s
  let s2 := (s1.setRecord p ((s1.record p).faultTaken cause stamp prov.isSome)).setFlag .faultTaken
  if (s2.record p).contact = .closed then s2.closeCompletion p
  else s2.listClose p stamp cause.eligible.isSome prov.isSome

/-- Steps 2 to 4 of R59 for a CONTACT_OPEN of a BYPASSED or QUARANTINED record (R6): a QUARANTINED
record is not listed. -/
def State.applyContactOpen (s : State) (p : Pos) (stamp : Stamp) : State :=
  let s1 := (s.setRecord p ((s.record p).contactOpenTaken stamp)).setFlag .faultTaken
  if (s.record p).state = .bypassed then s1.listClose p stamp false false else s1

/-! ## Leaving DORMANT (R78, R14) -/

/-- An open withdrawn notice (R14): the record returns to BYPASSED, and if its contact reads OPEN a
CONTACT_OPEN is taken in the same event. The engine has left DORMANT for CHARGING or LOCKOUT, where
such a fault sends no notice (R60). -/
def State.openWithdrawn (s : State) (p : Pos) : State :=
  let s1 := s.setRecord p (s.record p).openEnded
  if (s.record p).state = .opening ∧ (s.record p).contact = .opened then s1.applyContactOpen p s.time
  else s1

/-- Every waiting OPEN entry is withdrawn (R78). -/
def State.withdrawOpens (s : State) : State :=
  let waiting := s.matrix.orders.filter fun e => e.kind == .toOpen
  let s1 := s.setOrders (s.matrix.orders.filter fun e => e.kind == .toClose)
  waiting.foldl (fun t e => t.openWithdrawn e.pos) s1

/-! ## Engine state changes (R93) and lockout (R113) -/

/-- A new engine state, with the conditional fields of the state left discarded (R92, R93). -/
def Engine.enter (e : Engine) (new : EngineState) : Engine :=
  { e with
    state := new, passToCome := none, cause := none, grace := none, brakeWait := none,
    proving := none, cleanRun := none }

/-- The publisher's timers and marks, discarded on leaving PUBLISHING or VERIFYING (R160, R166). -/
def Publisher.stopped (p : Publisher) : Publisher :=
  { p with
    frameSent := none, adoptDeadline := none, verified := none, minTimer := none,
    minElapsed := false, verDeadline := none }

/-- A change of engine state (R93): outputs follow the state, timers are discarded, STATE_CHANGE is
set, and on leaving DORMANT the waiting OPEN entries are withdrawn. -/
def State.changeState (s : State) (new : EngineState) : State :=
  let s1 := ((s.setEngine (s.engine.enter new)).setPublisher s.publisher.stopped).setFlag .stateChange
  if s.engine.state = .dormant then s1.withdrawOpens else s1

/-- The current pass, if any, ends with an outcome (R107). -/
def State.endPass (s : State) (o : PassOutcome) : State :=
  if s.engine.passCurrent then
    s.setEngine { s.engine with
      pass := s.engine.pass.map fun p => { p with outcome := some o }
      passCurrent := false }
  else s

/-- A lockout request (R113): in LOCKOUT it changes nothing; in any other state it ends the pass,
enters LOCKOUT with its cause and sets LOCKED_OUT. -/
def State.lockout (s : State) (c : LockoutCause) : State :=
  if s.engine.state = .lockout then s
  else
    let s1 := (s.endPass .endedByLockout).changeState .lockout
    (s1.setEngine { s1.engine with cause := some c }).setFlag .lockedOut

/-! ## The rebalance and PUBLISHING entry (R106, R134, R153 to R158) -/

/-- The pairs of one phase: rank and offset of each record holding an offset, in ascending rank
(R153). -/
def State.pairs (s : State) (q : Nat) : List (Nat × Nat) :=
  (phasePositions q).filterMap fun p => (s.record p).offset.map fun o => (rankOf p, o)

/-- The set transmitter takes a frame: it is sent at once, or queued behind the frame being sent in
place of any frame already queued (R155). -/
def Publisher.transmit (p : Publisher) (frame : List Byte) (now : Stamp) : Publisher :=
  match p.sending with
  | none => { p with sending := some { frame := frame, since := now } }
  | some _ => { p with queued := some frame }

/-- PUBLISHING entry at the publisher (R158): generation (R157), frame built (R154) and sent or queued,
frame-sent mark clear, adoption deadline started. -/
def State.publishEntry (s : State) (r : Result) : State :=
  let gen := s.publisher.adopted + 1
  let frame := setFrame gen r (s.pairs 0) (s.pairs 1) (s.pairs 2)
  let p := { s.publisher with published := gen }.transmit frame s.time
  s.setPublisher { p with frameSent := some false, adoptDeadline := some s.time }

/-- The attempt index of a pass (R106). -/
def State.passAttempt (s : State) (kind : PassKind) : Nat :=
  match kind with
  | .cold => 0
  | .restart => s.engine.attempts

/-- A new pass opens (R106, step 1). -/
def State.openPass (s : State) (kind : PassKind) : State :=
  s.setEngine { s.engine with
    pass := some { kind := kind, attempt := s.passAttempt kind, outcome := none }
    passCurrent := true }

/-- The commit (R134): the roster, the result record, then PUBLISHING. -/
def State.commit (s : State) (r : Result) (parked : List Pos) : State :=
  (((s.commitRoster parked).setResult (some r)).changeState .publishing).publishEntry r

/-- The rebalance event as the engine runs it (R106, R119). -/
def State.runRebalance (s : State) (kind : PassKind) : State :=
  let lower := s.engine.sampledDir.getD Config.unsampledDir
  let s1 := s.openPass kind
  match rebalance s.roster s.params s.tables kind (s.passAttempt kind) lower with
  | .commit r parked => (if r.miss then s1.setFlag .tableMiss else s1).commit r parked
  | .lockout c miss => (if miss then s1.setFlag .tableMiss else s1).lockout c

/-! ## BYPASSING, HALTED and attempt accounting (R100 to R105) -/

/-- The exit condition of BYPASSING (R105). -/
def State.exitHolds (s : State) : Bool :=
  allPositions.all (fun p => !(s.record p).holdsEngine) && s.intake.provisionals.isEmpty

/-- A test of the exit condition: in BYPASSING, when it holds, the rebalance runs at once (R105). -/
def State.exitTest (s : State) : State :=
  if s.engine.state = .bypassing ∧ s.exitHolds then
    match s.engine.passToCome with
    | some kind => s.runRebalance kind
    | none => s
  else s

/-- Entry into BYPASSING with a pass to come; the exit is tested at entry (R105). -/
def State.enterBypassing (s : State) (kind : PassKind) : State :=
  let s1 := s.changeState .bypassing
  (s1.setEngine { s1.engine with passToCome := some kind }).exitTest

/-- Entry into HALTED (R103). -/
def State.enterHalted (s : State) : State :=
  let s1 := s.changeState .halted
  if s1.brakeSet then s1.enterBypassing .restart
  else s1.setEngine { s1.engine with brakeWait := some s1.time }

/-- The attempt limit in force (R102). -/
def Params.limitInForce (ps : Params) (manride : Bool) : Nat :=
  let full := if ps.aLim = 0 then 15 else ps.aLim
  if manride then min full ps.aMan else full

/-- MANRIDE and DIR are sampled and kept (R90). -/
def State.sampleLines (s : State) : State :=
  s.setEngine { s.engine with sampledManride := some s.manride, sampledDir := some s.dirLower }

/-- Attempt accounting (R102): HALTED with the count raised, or LOCKOUT with cause ATTEMPTS. -/
def State.accounting (s : State) : State :=
  let s1 := s.sampleLines
  if s.engine.attempts < s.params.limitInForce s.manride then
    (s1.setEngine { s1.engine with attempts := s.engine.attempts + 1 }).enterHalted
  else s1.lockout .attempts

/-- The fault notice, by the engine's state (R100, R101). -/
def State.faultNotice (s : State) : State :=
  match s.engine.state with
  | .publishing | .verifying | .proving | .running => (s.endPass .endedByFault).accounting
  | .bypassing => s.exitTest
  | .config | .dormant | .charging | .halted | .lockout => s

/-! ## RUNNING, PROVING and the outcomes of verification (R108 to R110, R162, R163) -/

/-- Entry into RUNNING (R109): after a RESTART pass the countdown starts and RESTARTED is set. -/
def State.enterRunning (s : State) : State :=
  let s1 := s.changeState .running
  match s.engine.pass with
  | some p =>
    match p.kind with
    | .cold =>
      s1.setEngine { s1.engine with pass := some { p with outcome := some .completeCold } }
    | .restart =>
      (s1.setEngine { s1.engine with
        pass := some { p with outcome := some .completeRestart }
        cleanRun := some { remaining := s.params.tCLEAN, accrual := 0 } }).setFlag .restarted
  | none => s1

/-- Entry into PROVING: the proving deadline starts (R110). -/
def State.enterProving (s : State) : State :=
  let s1 := s.changeState .proving
  s1.setEngine { s1.engine with proving := some s1.time }

/-- Verification passed (R163, R108): a COLD pass enters RUNNING, a RESTART pass PROVING. -/
def State.verificationPassed (s : State) : State :=
  match s.engine.pass with
  | some p =>
    match p.kind with
    | .cold => s.enterRunning
    | .restart => s.enterProving
  | none => s

/-- K_CLEAN, 0 read as 1 (R162). -/
def Params.cleanNeeded (ps : Params) : Nat := if ps.kClean = 0 then 1 else ps.kClean

/-- A record short of K_CLEAN (R164). -/
def State.short (s : State) (p : Pos) : Bool := (s.record p).cleanRun.getD 0 < s.params.cleanNeeded

/-- The pass condition (R162). -/
def State.passCondition (s : State) : Bool :=
  match s.publisher.verified with
  | some ps => s.publisher.minElapsed && ps.all fun p => !s.short p
  | none => false

/-- A test of the pass condition in VERIFYING (R162). -/
def State.passTest (s : State) : State :=
  if s.engine.state = .verifying ∧ s.passCondition then s.verificationPassed else s

end Sys2Proof.Machine
end

