-- ==== Sys2Proof/Machine/Intake.lean ====
section
/-! DEFINITION. The fault intake: which reports are taken (R56 to R58), taking one (R59, R60),
provisional faults (R62, R63) and common-cause groups (R64 to R67). -/

namespace Sys2Proof.Machine

/-! ## Common-cause judgment -/

/-- A provisional fault of a code is open in a phase other than the position's (R64). -/
def Intake.openElsewhere (i : Intake) (code : Eligible) (p : Pos) : Bool :=
  i.provisionals.any fun f => f.code == code && phaseOf f.pos != phaseOf p

/-- The open group of a code (R65). -/
def Intake.groupOf (i : Intake) (code : Eligible) : Option Group := i.groups.find? fun g => g.code == code

/-- A provisional fault in its place in stamp order, position order among equal stamps (R66). -/
def insertProvisional (f : Provisional) : List Provisional → List Provisional
  | [] => [f]
  | x :: rest =>
    if before f.stamp f.pos x.stamp x.pos then f :: x :: rest else x :: insertProvisional f rest

/-- The open provisional faults of a code, in stamp order. -/
def Intake.ofCode (i : Intake) (code : Eligible) : List Provisional :=
  (i.provisionals.filter fun f => f.code == code).foldr insertProvisional []

/-- The latest of the members' stamps, the last in stamp order (R64). -/
def latestStamp (fs : List Provisional) (fallback : Stamp) : Stamp :=
  match fs.getLast? with
  | some f => f.stamp
  | none => fallback

/-- Steps 1 and 2 of R66: the CLOSE entry is withdrawn and the record restored. -/
def State.restoreMember (s : State) (p : Pos) : State :=
  let s1 := s.setOrders (withoutEntry p .toClose s.matrix.orders)
  s1.setRecord p (s1.record p).restored

/-- Step 3 of R66: a restored record whose contact reads CLOSED takes CONTACT_CLOSED, and its close
completes at once. Its notice reaches an engine in LOCKOUT and changes nothing. -/
def State.closeRestored (s : State) (p : Pos) : State :=
  if (s.record p).state.active ∧ (s.record p).contact = .closed then
    s.applyFault p .contactClosed s.time
  else s

/-- Restoration of the members that join in one event, in the order given, then the lockout request
of R67, then step 3 of R66 for each, which finds the engine in LOCKOUT. -/
def State.restoreAll (s : State) (members : List Pos) : State :=
  let restorable := members.filter fun p => (s.record p).restorable
  let s1 := (members.foldl State.restoreMember s).lockout .commonCause
  restorable.foldl State.closeRestored s1

/-- Joining the open group of a code (R65): the member set without repetition, the latest member stamp
carried forward, the new fault no longer provisional. -/
def Intake.join (i : Intake) (code : Eligible) (p : Pos) (stamp : Stamp) : Intake where
  provisionals := i.provisionals.filter fun f => !(f.pos == p && f.code == code)
  groups := i.groups.map fun g =>
    if g.code = code then
      { g with members := if g.members.contains p then g.members else g.members ++ [p], latest := stamp }
    else g

/-- Forming a group (R64): every open provisional fault of the code becomes a member. -/
def Intake.form (i : Intake) (code : Eligible) (stamp : Stamp) : Intake where
  provisionals := i.provisionals.filter fun f => f.code != code
  groups := i.groups ++
    [{ code := code, members := (i.ofCode code).map (·.pos), latest := latestStamp (i.ofCode code) stamp }]

/-! ## Taking a report (R59) -/

/-- Whether a fault of an eligible code at a position is judged common cause in its own taking
(R59, step 5). -/
def Intake.judges (i : Intake) (code : Eligible) (p : Pos) : Bool :=
  (i.groupOf code).isSome || i.openElsewhere code p

/-- Step 5 of R59: the judgment, joining or forming, with restoration and the lockout request. -/
def State.judge (s : State) (code : Eligible) (p : Pos) (stamp : Stamp) : State :=
  if (s.intake.groupOf code).isSome then
    (s.setIntake (s.intake.join code p stamp)).restoreAll [p]
  else
    (s.setIntake (s.intake.form code stamp)).restoreAll ((s.intake.ofCode code).map fun f => f.pos)

/-- A report against an active record is taken (R59): steps 1 to 4, then the judgment, or the fault
notice (R60). -/
def State.takeFault (s : State) (p : Pos) (cause : FaultCause) : State :=
  let s1 := s.applyFault p cause s.time
  match s.provisionalCode cause with
  | some code => if s1.intake.judges code p then s1.judge code p s.time else s1.faultNotice
  | none => s1.faultNotice

/-- A CONTACT_OPEN of a BYPASSED or QUARANTINED record is taken (R59); its notice is sent only in
RUNNING, PROVING, VERIFYING or PUBLISHING (R60). -/
def State.takeContactOpen (s : State) (p : Pos) : State :=
  let s1 := s.applyContactOpen p s.time
  match s.engine.state with
  | .running | .proving | .verifying | .publishing => s1.faultNotice
  | .config | .dormant | .charging | .halted | .bypassing | .lockout => s1

/-! ## Which reports are taken (R56 to R58) -/

/-- The engine states in which a cell code is taken (R57). -/
def EngineState.takesCode (st : EngineState) (code : CellCode) : Bool :=
  match st with
  | .config | .dormant => false
  | .charging => code != .dcUnder
  | .halted | .bypassing | .publishing | .verifying | .proving | .running | .lockout => true

/-- The engine states in which LINK_LOST and LINK_DEGRADED are taken (R57). -/
def EngineState.takesLink : EngineState → Bool
  | .config | .dormant | .charging => false
  | .halted | .bypassing | .publishing | .verifying | .proving | .running | .lockout => true

/-- A cell-code report (R56, R57). -/
def State.reportCode (s : State) (p : Pos) (code : CellCode) : State :=
  match code.cause with
  | some cause =>
    if (s.record p).state.active ∧ s.engine.state.takesCode code then s.takeFault p cause else s
  | none => s

/-- A LINK_LOST or LINK_DEGRADED report (R56, R57). -/
def State.reportLink (s : State) (p : Pos) (cause : FaultCause) : State :=
  if (s.record p).state.active ∧ s.engine.state.takesLink then s.takeFault p cause else s

/-- A contact-settled report outside CONFIG: taken when it contradicts the record's state (R58). -/
def State.reportContact (s : State) (p : Pos) (closed : Bool) : State :=
  if closed then
    if (s.record p).state.active then s.takeFault p .contactClosed else s
  else
    if (s.record p).state = .bypassed ∨ (s.record p).state = .quarantined then s.takeContactOpen p else s

/-! ## The intake's own events -/

/-- An open provisional fault whose window has reached tCC (R63). -/
def State.windowRun (s : State) (f : Provisional) : Bool :=
  decide (s.params.tCC ≤ elapsed s.time f.stamp)

/-- The window of a position's provisional fault has reached tCC, and no such window of its code comes before
it: those of one code expire in stamp order, in position order where the stamps are equal (R53, R63). -/
def State.windowDue (s : State) (p : Pos) : Bool :=
  s.intake.provisionals.any fun f => f.pos == p && s.windowRun f
    && s.intake.provisionals.all fun g =>
      !(g.code == f.code && s.windowRun g && before g.stamp g.pos f.stamp f.pos)

/-- The hold of a position's CLOSE entry is released (R63, R76). -/
def releaseHold (p : Pos) (l : List Entry) : List Entry :=
  l.map fun e => if e.pos = p ∧ e.kind = .toClose then { e with hold := false } else e

/-- Window expiry (R63): no longer open, the hold released, the prior state removed (R7). -/
def State.windowExpiry (s : State) (p : Pos) : State :=
  let s1 := s.setIntake { s.intake with
    provisionals := s.intake.provisionals.filter fun f => !(f.pos == p) }
  let s2 := s1.setOrders (releaseHold p s1.matrix.orders)
  s2.setRecord p (s2.record p).madeOrdinary

/-- The group of a code has run tCC from its latest member stamp (R65). -/
def State.groupDue (s : State) (code : Eligible) : Bool :=
  match s.intake.groupOf code with
  | some g => decide (s.params.tCC ≤ elapsed s.time g.latest)
  | none => false

/-- The close of a group: it is discarded and no record changes (R65). -/
def State.groupClose (s : State) (code : Eligible) : State :=
  s.setIntake { s.intake with groups := s.intake.groups.filter fun g => g.code != code }

/-! ## Meanings -/

/-- What every event does while a reset is held or the supply is lost: nothing (R188, R190). -/
def State.whileRunning (s : State) (event : State → State) : State :=
  match s.mode with
  | .running => event s
  | .held _ | .off => s

/-- An event that arises when a condition holds: before it, the command changes nothing (assumption
5). -/
def State.whenDue (s : State) (due : Bool) (event : State → State) : State :=
  s.whileRunning fun s => if due then event s else s

/-- WINDOW_EXPIRY (R63). -/
def execWindowExpiry (p : Pos) (s : State) : Host.Outcome State Fault Refusal :=
  .next (s.whenDue (s.windowDue p) fun s => s.windowExpiry p)

/-- GROUP_CLOSE (R65). -/
def execGroupClose (code : Eligible) (s : State) : Host.Outcome State Fault Refusal :=
  .next (s.whenDue (s.groupDue code) fun s => s.groupClose code)

end Sys2Proof.Machine
end

