-- ==== Sys2Proof/Machine/Links.lean ====
section
/-! DEFINITION. The cell link unit: words and framing (R31 to R33), the checksum check (R34),
duplicates and acceptance (R36 to R41), bad frames (R42, R43), silence (R44) and the downlink (R47 to
R49). -/

namespace Sys2Proof.Machine

/-! ## Bad frames (R42, R43) -/

/-- The score after a bad frame: 4 more, up to 63 (R42). -/
def scoreAfterBad (score : Nat) : Nat := min Config.errorCeiling (score + 4)

/-- The clean-frame run of the record on an assigned channel set to 0 (R39). -/
def State.clearRun (s : State) (p : Pos) : State :=
  s.setRecord p { s.record p with cleanRun := some 0 }

/-- A bad frame that crosses 32 from below on an assigned channel with the latch clear (R43). -/
def Receiver.crosses (r : Receiver) : Bool :=
  decide (r.score < Config.errorLimit) && decide (Config.errorLimit ≤ scoreAfterBad r.score) && !r.degraded

/-- One bad frame counted (R42), with the LINK_DEGRADED report of R43. -/
def State.badFrame (s : State) (ch : Chan) : State :=
  let rx := (s.link ch).rx
  let counted := { rx with score := scoreAfterBad rx.score }
  match s.channelPos ch with
  | none => s.setRx ch counted
  | some p =>
    if rx.crosses then
      ((s.setRx ch { counted with degraded := true }).clearRun p).reportLink p .linkDegraded
    else (s.setRx ch counted).clearRun p

/-! ## Valid frames (R36 to R41) -/

/-- A clean frame: code NONE and the voltage in the window, V_HI of 0 disabling the upper bound
(R39). -/
def UplinkFields.clean (f : UplinkFields) (ps : Params) : Bool :=
  (f.code == .none) && decide (ps.vLo ≤ f.voltage) && (ps.vHi == 0 || decide (f.voltage ≤ ps.vHi))

/-- The receiver after acceptance (R37). -/
def Receiver.accepted (r : Receiver) (seq : BitVec 4) (stamp : Stamp) : Receiver :=
  { r with
    score := r.score - 1
    degraded := if r.score = 1 then false else r.degraded
    link := .live
    lastSeq := some seq
    silence := some stamp }

/-- The record after an accepted frame: measurements (R38) and clean-frame run (R39). -/
def Record.measured (r : Record) (f : UplinkFields) (clean : Bool) : Record :=
  { r with
    voltage := some f.voltage
    temperature := some f.temperature
    reported := some f.code
    cleanRun := some (if clean then min 31 (r.cleanRun.getD 0 + 1) else 0) }

/-- The fault-reset latch of a channel cleared (R49). -/
def State.clearFaultReset (s : State) (ch : Chan) : State :=
  s.setTx ch { (s.link ch).tx with faultReset := false }

/-- The pass condition is tested at each increase of a verified record's run (R162). -/
def State.verifies (s : State) (p : Pos) : Bool :=
  match s.publisher.verified with
  | some ps => ps.contains p
  | none => false

/-- An accepted frame written into the record of its channel (R38, R39, R49), then reported to the
intake (R40), or its run increase tested by the publisher (R162). -/
def State.frameToRecord (s : State) (ch : Chan) (p : Pos) (f : UplinkFields) : State :=
  let clean := f.clean s.params
  let s1 := s.setRecord p ((s.record p).measured f clean)
  let s2 := if clean then s1.clearFaultReset ch else s1
  if f.code = .none then
    if clean ∧ (s.record p).cleanRun.getD 0 < 31 ∧ s.verifies p then s2.passTest else s2
  else s2.reportCode p f.code

/-- Acceptance (R37), then the record on an assigned channel or STRAY_FRAME (R41). -/
def State.acceptFrame (s : State) (ch : Chan) (f : UplinkFields) : State :=
  let s1 := s.setRx ch ((s.link ch).rx.accepted f.seq s.time)
  match s.channelPos ch with
  | some p => s1.frameToRecord ch p f
  | none => s1.setFlag .strayFrame

/-- A duplicate (R36): on a LIVE receiver it restarts the silence timer, on an unassigned channel it
sets STRAY_FRAME (R41). -/
def State.duplicateFrame (s : State) (ch : Chan) : State :=
  let rx := (s.link ch).rx
  let s1 := if rx.link = .live then s.setRx ch { rx with silence := some s.time } else s
  if (s.channelPos ch).isSome then s1 else s1.setFlag .strayFrame

/-- The sequence filter (R36). -/
def State.validFrame (s : State) (ch : Chan) (f : UplinkFields) : State :=
  if (s.link ch).rx.lastSeq = some f.seq then s.duplicateFrame ch else s.acceptFrame ch f

/-- The framer of a channel set (R30). -/
def State.setFraming (s : State) (ch : Chan) (f : Option OpenFrame) : State :=
  s.setRx ch { (s.link ch).rx with frame := f }

/-- The checksum check of a complete, uncondemned frame (R34). -/
def State.checkFrame (s : State) (ch : Chan) (b0 b1 b2 b3 b4 : Byte) : State :=
  if crc8 [b0, b1, b2, b3] = b4 then s.validFrame ch (decodeUplink b0 b1 b2 b3) else s.badFrame ch

/-! ## Words (R31 to R33) -/

/-- A marker word: an open frame closes as one bad frame, then the word opens a new frame (R32). -/
def State.markerWord (s : State) (ch : Chan) (data : Byte) (faulty : Bool) : State :=
  let s1 := if (s.link ch).rx.frame.isSome then (s.setFraming ch none).badFrame ch else s
  s1.setFraming ch (some { words := [data], condemned := faulty })

/-- A complete frame closes (R33): condemned, it is one bad frame; else it goes to the checksum
check. -/
def State.closeFrame (s : State) (ch : Chan) (f : OpenFrame) : State :=
  let s1 := s.setFraming ch none
  if f.condemned then s1.badFrame ch
  else
    match f.words with
    | [b0, b1, b2, b3, b4] => s1.checkFrame ch b0 b1 b2 b3 b4
    | _ => s1.badFrame ch

/-- A continuation word: with no frame open it is discarded as one bad frame; else it is held, and the
fifth word completes the frame (R33). -/
def State.continuationWord (s : State) (ch : Chan) (data : Byte) (faulty : Bool) : State :=
  match (s.link ch).rx.frame with
  | none => s.badFrame ch
  | some f =>
    let g : OpenFrame := { words := f.words ++ [data], condemned := f.condemned || faulty }
    if 5 ≤ g.words.length then s.closeFrame ch g else s.setFraming ch (some g)

/-- A word completes at its stop bit and is handed to the framer (R31). -/
def State.uplinkWord (s : State) (ch : Chan) (w : BitVec 12) : State :=
  if lineMarker w then s.markerWord ch (lineData w) (lineFaulty w)
  else s.continuationWord ch (lineData w) (lineFaulty w)

/-! ## Silence (R44) -/

/-- A LIVE receiver whose silence timer has reached tSIL (R44). -/
def State.silenceDue (s : State) (ch : Chan) : Bool :=
  ((s.link ch).rx.link == .live) && reached s.time (s.link ch).rx.silence s.params.tSIL

/-- Silence detected (R44). -/
def State.silenceDetected (s : State) (ch : Chan) : State :=
  let s1 := s.setRx ch { (s.link ch).rx with link := .silent, silence := none, frame := none }
  match s.channelPos ch with
  | some p => (s1.clearRun p).reportLink p .linkLost
  | none => s1

/-! ## Downlink (R47, R48) -/

/-- The gate permit of a frame to a position: an offset held, and the engine PROVING or RUNNING
(R48). -/
def State.gatePermit (s : State) (p : Pos) : Bool :=
  (s.record p).offset.isSome && (s.engine.state == .proving || s.engine.state == .running)

/-- One transmitter at a boundary (R47): an assigned channel begins one frame and its sequence goes on
by 1 (assumption 8); an unassigned channel's line stays idle. -/
def State.txAtBoundary (s : State) (ch : Chan) : Transmitter :=
  let tx := (s.link ch).tx
  match s.channelPos ch with
  | some p =>
    { tx with sent := some (downlinkByte (s.gatePermit p) tx.faultReset tx.seq), seq := tx.seq + 1 }
  | none => { tx with sent := none }

/-- The next 50 µs boundary has come (R47). -/
def State.boundaryDue (s : State) : Bool :=
  decide (Config.downlinkMicros ≤ elapsed s.time s.downlinkSince)

/-- A downlink boundary (R47). -/
def State.downlinkBoundary (s : State) : State :=
  (s.setLinks (Vector.ofFn fun ch => { s.link ch with tx := s.txAtBoundary ch })).setDownlinkSince
    (s.downlinkSince + BitVec.ofNat 32 Config.downlinkMicros)

/-- What a channel's transmitter sends in the present downlink period: two line words, or an idle line
(R47). -/
def State.downlinkFrame (s : State) (ch : Chan) : Option (List (BitVec 12)) :=
  (s.link ch).tx.sent.map downlinkWords

/-- The level of DTX of a channel in bit time t after the last boundary: the frame's two words back to back,
and high while the line is idle (R47, R201). -/
def State.dtx (s : State) (ch : Chan) (t : Nat) : Bool := lineLevel ((s.downlinkFrame ch).getD []) t

/-! ## Meanings -/

/-- UPLINK_WORD (R31 to R33): the whole chain of one word. -/
def execUplinkWord (ch : Chan) (w : BitVec 12) (s : State) : Host.Outcome State Fault Refusal :=
  .next (s.whileRunning fun s => s.uplinkWord ch w)

/-- UPLINK_FRAME (R34): a complete, uncondemned frame of five words closes. -/
def execUplinkFrame (ch : Chan) (b0 b1 b2 b3 b4 : Byte) (s : State) : Host.Outcome State Fault Refusal :=
  .next (s.whileRunning fun s => (s.setFraming ch none).checkFrame ch b0 b1 b2 b3 b4)

/-- The framer after a bad frame of a kind (R32 to R34). -/
def State.framingAfterBad (s : State) (ch : Chan) : BadKind → State
  | .interrupted w => s.setFraming ch (some { words := [lineData w], condemned := lineFaulty w })
  | .stray _ => s
  | .condemned => s
  | .checksum => s

/-- BAD_FRAME (R42): the frame is closed and counted, and an interrupting word opens the next. -/
def execBadFrame (ch : Chan) (k : BadKind) (s : State) : Host.Outcome State Fault Refusal :=
  .next (s.whileRunning fun s => ((s.setFraming ch none).badFrame ch).framingAfterBad ch k)

/-- SILENCE_DETECTED (R44). -/
def execSilenceDetected (ch : Chan) (s : State) : Host.Outcome State Fault Refusal :=
  .next (s.whenDue (s.silenceDue ch) fun s => s.silenceDetected ch)

/-- DOWNLINK_BOUNDARY (R47). -/
def execDownlinkBoundary (s : State) : Host.Outcome State Fault Refusal :=
  .next (s.whenDue s.boundaryDue fun s => s.downlinkBoundary)

end Sys2Proof.Machine
end

