-- ==== Sys2Proof/Machine/Matrix.lean ====
section
/-! DEFINITION. The bypass switch matrix: the contact scan (R70 to R73), grants (R81, R82), pulses and
their confirmation (R83 to R87), recovery (R80) and hold-off (R79). -/

namespace Sys2Proof.Machine

/-! ## Confirmation (R84, R86) -/

/-- A close confirmed (R82, R84): the roster completes the close, SWITCH_DONE is set. -/
def State.closeConfirmed (s : State) (p : Pos) : State := (s.closeCompletion p).setFlag .switchDone

/-- The fault-reset latch of the channel of a record set (R49). -/
def State.setFaultReset (s : State) (p : Pos) : State :=
  match (s.record p).channel with
  | some ch => s.setTx ch { (s.link ch).tx with faultReset := true }
  | none => s

/-- An open confirmed (R82, R86): PROBATION (R13), the fault-reset latch set (R49), SWITCH_DONE. -/
def State.openConfirmed (s : State) (p : Pos) : State :=
  let s1 := s.setRecord p ((s.record p).openConfirmed s.params.tPROB)
  (if (s.record p).state = .opening then s1.setFaultReset p else s1).setFlag .switchDone

/-- The unit once a pulse's confirmation has concluded (R80). -/
def concluded (ended : Stamp) (recovered : Bool) : FiringUnit :=
  if recovered then .idle else .recovering ended

/-- A settled change at a position the unit is SETTLING on confirms its pulse when it is the pulse's
target and the deadline has not passed (R72 step 2, R84, R86); a close confirmed is followed by the
engine's exit test (R105). -/
def State.confirm (s : State) (p : Pos) (closed : Bool) : State :=
  match s.matrix.unit with
  | .settling q kind ended recovered =>
    if q = p ∧ elapsed s.time ended ≤ millis s.params.tBC then
      match kind, closed with
      | .toClose, true => ((s.closeConfirmed p).setUnit (concluded ended recovered)).exitTest
      | .toOpen, false => (s.openConfirmed p).setUnit (concluded ended recovered)
      | .toClose, false => s
      | .toOpen, true => s
    else s
  | .idle => s
  | .firing _ _ _ => s
  | .recovering _ => s

/-! ## The contact scan (R70 to R72) -/

def contactOf (closed : Bool) : Contact := if closed then .closed else .opened

/-- A settled change (R72): the contact field, the confirmation, then the CONFIG follow or the report
to the intake. -/
def State.settledChange (s : State) (p : Pos) (closed : Bool) : State :=
  let s1 := s.setRecord p { s.record p with contact := contactOf closed }
  let s2 := s1.confirm p closed
  if s2.engine.state = .config then s2.setRecord p ((s2.record p).follow closed s2.params.qLim)
  else s2.reportContact p closed

/-- The debounce state of a position. -/
def State.debounce (s : State) (p : Pos) : Debounce := s.matrix.debounce[p]

def State.setDebounce (s : State) (p : Pos) (d : Debounce) : State :=
  s.setMatrix { s.matrix with debounce := s.matrix.debounce.set p d }

/-- One read of a position (R71): the third agreeing read of a value other than the settled one is a
settled change. -/
def State.readContact (s : State) (p : Pos) (closed : Bool) : State :=
  let d := s.debounce p
  if d.candidate = some closed then
    if Config.debounceReads ≤ d.agree then s
    else
      let s1 := s.setDebounce p { d with agree := d.agree + 1 }
      if d.agree + 1 = Config.debounceReads ∧ (s.record p).contact ≠ contactOf closed then
        s1.settledChange p closed
      else s1
  else s.setDebounce p { candidate := some closed, agree := 1 }

/-- The dwell in progress has run its millisecond (R70). -/
def State.dwellDue (s : State) : Bool := reached s.time s.matrix.dwell Config.dwellMicros

/-- The end of a dwell (R70): the three reads of the pointer's rank, in position order, then the
pointer advances and the next dwell begins. -/
def State.dwellEnd (s : State) (a b c : Bool) : State :=
  let r := s.matrix.pointer
  let s1 := s.setSense { a := a, b := b, c := c }
  let s2 := ((s1.readContact (posAt 0 r) a).readContact (posAt 1 r) b).readContact (posAt 2 r) c
  s2.setMatrix { s2.matrix with pointer := r + 1, dwell := some s.time }

/-! ## Hold-off (R79) -/

/-- A marked CLOSE entry of the position whose elapsed time since its stamp has reached tHO. -/
def State.holdOffDue (s : State) (p : Pos) : Bool :=
  s.matrix.orders.any fun e =>
    e.pos == p && e.kind == .toClose && e.holdOff && !e.holdOffRun
      && decide (millis s.params.tHO ≤ elapsed s.time e.stamp)

/-- The hold-off of the position's CLOSE entry has run out (R79). -/
def State.holdOffExpiry (s : State) (p : Pos) : State :=
  s.setOrders (s.matrix.orders.map fun e =>
    if e.pos = p ∧ e.kind = .toClose then { e with holdOffRun := true } else e)

/-! ## Grants and pulses (R81 to R83) -/

/-- The unit is IDLE and an entry is eligible (R81). -/
def State.grantDue (s : State) : Bool := (s.matrix.unit == .idle) && s.nextEligible.isSome

/-- A pulse starts (R73, R83). -/
def State.pulseStart (s : State) (p : Pos) (kind : SwitchKind) : State :=
  let s1 := s.setMatrix { s.matrix with unit := .firing p kind s.time, dwell := none }
  match kind with
  | .toClose => s1.setRecord p (s1.record p).closeGranted
  | .toOpen => s1

/-- A grant (R81 to R83): the entry leaves the list; with the contact already at its target it
completes without a pulse, else a pulse starts. -/
def State.grant (s : State) (e : Entry) : State :=
  let s1 := s.setOrders (withoutEntry e.pos e.kind s.matrix.orders)
  match e.kind, (s1.record e.pos).contact with
  | .toClose, .closed => (s1.closeConfirmed e.pos).exitTest
  | .toOpen, .opened => s1.openConfirmed e.pos
  | .toClose, .opened => s1.pulseStart e.pos .toClose
  | .toClose, .unsettled => s1.pulseStart e.pos .toClose
  | .toOpen, .closed => s1.pulseStart e.pos .toOpen
  | .toOpen, .unsettled => s1.pulseStart e.pos .toOpen

def State.entryGrant (s : State) : State :=
  match s.nextEligible with
  | some e => s.grant e
  | none => s

/-- A pulse in flight has run its width tFW (R83). -/
def State.pulseDue (s : State) : Bool :=
  match s.matrix.unit with
  | .firing _ _ since => decide (millis s.params.tFW ≤ elapsed s.time since)
  | .idle => false
  | .settling _ _ _ _ => false
  | .recovering _ => false

/-- Pulse end (R83): the lines are released, the scan resumes with a full dwell, the unit is
SETTLING. -/
def State.pulseEnd (s : State) : State :=
  match s.matrix.unit with
  | .firing p kind _ =>
    s.setMatrix { s.matrix with unit := .settling p kind s.time false, dwell := some s.time }
  | .idle => s
  | .settling _ _ _ _ => s
  | .recovering _ => s

/-- The confirm deadline of a pulse of a kind has passed (R85, R87). -/
def State.timeoutDue (s : State) (kind : SwitchKind) : Bool :=
  match s.matrix.unit with
  | .settling _ k ended _ => (k == kind) && decide (millis s.params.tBC ≤ elapsed s.time ended)
  | .idle => false
  | .firing _ _ _ => false
  | .recovering _ => false

/-- A CLOSE pulse times out (R85). -/
def State.closeTimeout (s : State) : State :=
  match s.matrix.unit with
  | .settling p _ ended recovered =>
    (((s.setRecord p (s.record p).closeTimedOut).setFlag .switchFail).setUnit
      (concluded ended recovered)).lockout .switchFail
  | .idle => s
  | .firing _ _ _ => s
  | .recovering _ => s

/-- An OPEN pulse times out (R87). -/
def State.openTimeout (s : State) : State :=
  match s.matrix.unit with
  | .settling p _ ended recovered =>
    ((s.setRecord p (s.record p).openEnded).setFlag .switchFail).setUnit (concluded ended recovered)
  | .idle => s
  | .firing _ _ _ => s
  | .recovering _ => s

/-- tREC has run since the pulse end (R80). -/
def State.recoveryDue (s : State) : Bool :=
  match s.matrix.unit with
  | .settling _ _ ended recovered => !recovered && decide (millis s.params.tREC ≤ elapsed s.time ended)
  | .recovering ended => decide (millis s.params.tREC ≤ elapsed s.time ended)
  | .idle => false
  | .firing _ _ _ => false

/-- The end of recovery: noted while SETTLING, IDLE from RECOVERING (R80). -/
def State.recoveryEnd (s : State) : State :=
  match s.matrix.unit with
  | .settling p kind ended _ => s.setUnit (.settling p kind ended true)
  | .recovering _ => s.setUnit .idle
  | .idle => s
  | .firing _ _ _ => s

/-! ## Meanings -/

/-- SCAN_DWELL_END (R70): the three sense lines as read at the end of the dwell. -/
def execScanDwellEnd (a b c : Bool) (s : State) : Host.Outcome State Fault Refusal :=
  .next (s.whenDue s.dwellDue fun s => s.dwellEnd a b c)

/-- HOLD_OFF_EXPIRY (R79). -/
def execHoldOffExpiry (p : Pos) (s : State) : Host.Outcome State Fault Refusal :=
  .next (s.whenDue (s.holdOffDue p) fun s => s.holdOffExpiry p)

/-- ENTRY_GRANT (R81). -/
def execEntryGrant (s : State) : Host.Outcome State Fault Refusal :=
  .next (s.whenDue s.grantDue fun s => s.entryGrant)

/-- PULSE_END (R83). -/
def execPulseEnd (s : State) : Host.Outcome State Fault Refusal :=
  .next (s.whenDue s.pulseDue fun s => s.pulseEnd)

/-- CLOSE_TIMEOUT (R85). -/
def execCloseTimeout (s : State) : Host.Outcome State Fault Refusal :=
  .next (s.whenDue (s.timeoutDue .toClose) fun s => s.closeTimeout)

/-- OPEN_TIMEOUT (R87). -/
def execOpenTimeout (s : State) : Host.Outcome State Fault Refusal :=
  .next (s.whenDue (s.timeoutDue .toOpen) fun s => s.openTimeout)

/-- RECOVERY_END (R80). -/
def execRecoveryEnd (s : State) : Host.Outcome State Fault Refusal :=
  .next (s.whenDue s.recoveryDue fun s => s.recoveryEnd)

end Sys2Proof.Machine
end

