-- ==== Sys2Proof/Machine/Winder.lean ====
section
/-! DEFINITION. The winder lines and the engine's own timers (R90, R95 to R99, R103, R104, R110 to
R112), and running time at the roster (R16, R17). -/

namespace Sys2Proof.Machine

/-! ## Line levels -/

def State.setEnergized (s : State) (l : Line) : State := s.setLines { s.lines with energized := l }
def State.setEstopN (s : State) (l : Line) : State := s.setLines { s.lines with estopN := l }
def State.setBrakeSet (s : State) (l : Line) : State := s.setLines { s.lines with brakeSet := l }
def State.setProven (s : State) (l : Line) : State := s.setLines { s.lines with proven := l }

/-- A qualified edge of a line (R204): while the part runs the level is settled and the engine takes
the event; while a reset is held or the supply is lost only the presented level changes (R188). -/
def State.edge (s : State) (settled presented : State → State) (event : State → State) : State :=
  match s.mode with
  | .running => event (settled s)
  | .held _ | .off => presented s

/-! ## Engine events -/

/-- Entry into CHARGING: the grace timer starts (R97). -/
def State.enterCharging (s : State) : State :=
  let s1 := s.changeState .charging
  s1.setEngine { s1.engine with grace := some s1.time }

/-- ENERGIZED rising (R96). -/
def State.energizedRise (s : State) : State :=
  if s.engine.state = .dormant then s.enterCharging else s

/-- ENERGIZED falling, in every state but CONFIG, LOCKOUT and DORMANT: the pass is ABANDONED and the
engine goes to DORMANT (R99). -/
def State.energizedFall (s : State) : State :=
  match s.engine.state with
  | .config | .lockout | .dormant => s
  | .charging | .halted | .bypassing | .publishing | .verifying | .proving | .running =>
    (s.endPass .abandoned).changeState .dormant

/-- ESTOP_N falling, in every state but CONFIG and LOCKOUT (R95). -/
def State.estopFall (s : State) : State :=
  match s.engine.state with
  | .config | .lockout => s
  | .dormant | .charging | .halted | .bypassing | .publishing | .verifying | .proving | .running =>
    s.lockout .estop

/-- BRAKE_SET rising in HALTED (R103). -/
def State.brakeRise (s : State) : State :=
  if s.engine.state = .halted then s.enterBypassing .restart else s

/-- PROVEN rising in PROVING (R110). -/
def State.provenRise (s : State) : State :=
  if s.engine.state = .proving then s.enterRunning else s

/-- The brake wait has reached tBRK with BRAKE_SET still low (R104). -/
def State.brakeWaitDue (s : State) : Bool :=
  (s.engine.state == .halted) && reached s.time s.engine.brakeWait (millis s.params.tBRK) && !s.brakeSet

/-- The grace timer has reached tWAKE, carried in 0.1 s (R98, R192). -/
def State.graceDue (s : State) : Bool :=
  (s.engine.state == .charging) && reached s.time s.engine.grace (s.params.tWAKE * 100000)

/-- Grace expiry (R98): BYPASSING with a COLD pass to come when a closure is outstanding, else the cold
pass's rebalance at once. -/
def State.graceExpiry (s : State) : State :=
  if allPositions.any fun p => (s.record p).holdsEngine then s.enterBypassing .cold
  else s.runRebalance .cold

/-- The proving deadline has reached tPRV (R111). -/
def State.provingDue (s : State) : Bool :=
  (s.engine.state == .proving) && reached s.time s.engine.proving (s.params.tPRV * 1000000)

/-- Proving timeout (R111). -/
def State.provingTimeout (s : State) : State := (s.endPass .endedByProveTimeout).accounting

/-! ## Running time -/

/-- The clean-run accrual has reached one second (R112). -/
def State.cleanSecondDue (s : State) : Bool :=
  match s.engine.cleanRun with
  | some c => decide (Config.secondMicros ≤ c.accrual)
  | none => false

/-- One second of the clean-run countdown (R112). -/
def State.cleanSecond (s : State) : State :=
  s.setEngine { s.engine with
    cleanRun := s.engine.cleanRun.map fun c =>
      { remaining := c.remaining - 1, accrual := c.accrual - Config.secondMicros } }

/-- The countdown stands at 0 (R112). -/
def State.cleanEndDue (s : State) : Bool :=
  match s.engine.cleanRun with
  | some c => c.remaining == 0
  | none => false

/-- The end of the clean run (R112). -/
def State.cleanEnd (s : State) : State :=
  s.setEngine { s.engine with attempts := 0, cleanRun := none }

/-- The roster's accrual has reached one second (R16). -/
def State.secondDue (s : State) : Bool := decide (Config.secondMicros ≤ s.accrual)

/-- A running-time second at the roster (R16). -/
def State.runningSecond (s : State) : State :=
  (s.setAccrual (s.accrual - Config.secondMicros)).mapRecords fun _ r => r.secondPassed

/-- A PROBATION record whose probation remaining stands at 0 (R17). -/
def State.probationDue (s : State) (p : Pos) : Bool :=
  ((s.record p).state == .probation) && ((s.record p).probation == some 0)

/-! ## Meanings -/

/-- ENERGIZED_RISING (R96). -/
def execEnergizedRising (s : State) : Host.Outcome State Fault Refusal :=
  .next (s.edge (fun s => s.setEnergized (Line.settle true))
    (fun s => s.setEnergized (s.lines.energized.present true)) State.energizedRise)

/-- ENERGIZED_FALLING (R99). -/
def execEnergizedFalling (s : State) : Host.Outcome State Fault Refusal :=
  .next (s.edge (fun s => s.setEnergized (Line.settle false))
    (fun s => s.setEnergized (s.lines.energized.present false)) State.energizedFall)

/-- ESTOP_N_FALLING (R95). -/
def execEstopNFalling (s : State) : Host.Outcome State Fault Refusal :=
  .next (s.edge (fun s => s.setEstopN (Line.settle false))
    (fun s => s.setEstopN (s.lines.estopN.present false)) State.estopFall)

/-- BRAKE_SET_RISING (R103). -/
def execBrakeSetRising (s : State) : Host.Outcome State Fault Refusal :=
  .next (s.edge (fun s => s.setBrakeSet (Line.settle true))
    (fun s => s.setBrakeSet (s.lines.brakeSet.present true)) State.brakeRise)

/-- BRAKE_SET_FALLING (R112): running time passes in RUNNING from here on. -/
def execBrakeSetFalling (s : State) : Host.Outcome State Fault Refusal :=
  .next (s.edge (fun s => s.setBrakeSet (Line.settle false))
    (fun s => s.setBrakeSet (s.lines.brakeSet.present false)) fun s => s)

/-- PROVEN_RISING (R110). -/
def execProvenRising (s : State) : Host.Outcome State Fault Refusal :=
  .next (s.edge (fun s => s.setProven (Line.settle true))
    (fun s => s.setProven (s.lines.proven.present true)) State.provenRise)

/-- BRAKE_WAIT_EXPIRY (R104). -/
def execBrakeWaitExpiry (s : State) : Host.Outcome State Fault Refusal :=
  .next (s.whenDue s.brakeWaitDue fun s => s.lockout .brakeTimeout)

/-- GRACE_EXPIRY (R98). -/
def execGraceExpiry (s : State) : Host.Outcome State Fault Refusal :=
  .next (s.whenDue s.graceDue fun s => s.graceExpiry)

/-- PROVING_DEADLINE_EXPIRY (R111). -/
def execProvingDeadlineExpiry (s : State) : Host.Outcome State Fault Refusal :=
  .next (s.whenDue s.provingDue fun s => s.provingTimeout)

/-- CLEAN_RUN_SECOND (R112). -/
def execCleanRunSecond (s : State) : Host.Outcome State Fault Refusal :=
  .next (s.whenDue s.cleanSecondDue fun s => s.cleanSecond)

/-- CLEAN_RUN_END (R112). -/
def execCleanRunEnd (s : State) : Host.Outcome State Fault Refusal :=
  .next (s.whenDue s.cleanEndDue fun s => s.cleanEnd)

/-- RUNNING_TIME_SECOND (R16). -/
def execRunningTimeSecond (s : State) : Host.Outcome State Fault Refusal :=
  .next (s.whenDue s.secondDue fun s => s.runningSecond)

/-- PROBATION_COMPLETE (R17). -/
def execProbationComplete (p : Pos) (s : State) : Host.Outcome State Fault Refusal :=
  .next (s.whenDue (s.probationDue p) fun s => s.setRecord p (s.record p).probationCompleted)

end Sys2Proof.Machine
end

