-- ==== Sys2Proof/Machine/Publication.lean ====
section
/-! DEFINITION. The publisher's events: the set transmitter (R155), adoption frames (R156, R158), the
adoption deadline (R159) and verification (R161 to R164). -/

namespace Sys2Proof.Machine

/-! ## The set transmitter (R155) -/

/-- The words on the outbound line: those of the set frame being sent, in one unbroken run; none while the
line is idle (R152). -/
def State.setLineWords (s : State) : List (BitVec 10) :=
  match s.publisher.sending with
  | some f => f.frame.map modWord
  | none => []

/-- The level of MTX in bit time t since the set frame's first word started; high while the line is idle
(R152, R201). -/
def State.mtx (s : State) (t : Nat) : Bool := lineLevel s.setLineWords t

/-- The last word of the frame being sent has been sent: half a microsecond a word (R152), counted in
whole microseconds (assumption 7). -/
def State.frameDue (s : State) : Bool :=
  match s.publisher.sending with
  | some f => decide (f.frame.length / 2 ≤ elapsed s.time f.since)
  | none => false

/-- The end of a set frame (R155): a queued frame starts; with none queued the frame sent is the last
one built, and in PUBLISHING its frame-sent mark is set. -/
def State.frameEnd (s : State) : State :=
  match s.publisher.queued with
  | some q =>
    s.setPublisher { s.publisher with sending := some { frame := q, since := s.time }, queued := none }
  | none =>
    s.setPublisher { s.publisher with
      sending := none
      frameSent := if s.engine.state = .publishing then some true else s.publisher.frameSent }

/-! ## VERIFYING entry (R161) -/

/-- A record of the verified set: PARKED, or IN_SERVICE or PROBATION holding an offset (R161). -/
def Record.verifiable (r : Record) : Bool :=
  match r.state with
  | .parked => true
  | .inService | .probation => r.offset.isSome
  | .empty | .faulted | .closing | .bypassed | .opening | .quarantined => false

/-- The verified set, in position order (R161). -/
def State.verifiedSet (s : State) : List Pos := allPositions.filter fun p => (s.record p).verifiable

/-- VERIFYING entry (R161): the verified set, its runs at 0, both timers started, the pass condition
tested. With tVMIN at 0 the elapsed mark is set at entry (R162). -/
def State.verifyingEntry (s : State) : State :=
  let ps := s.verifiedSet
  let s1 := s.mapRecords fun p r => if ps.contains p then { r with cleanRun := some 0 } else r
  (s1.setPublisher { s1.publisher with
    verified := some ps, minTimer := some s.time, minElapsed := s.params.tVMIN == 0,
    verDeadline := some s.time }).passTest

/-! ## Adoption (R156, R158) -/

/-- A valid adoption frame (R158): accepted in PUBLISHING when its generation is the published one and
the frame-sent mark is set; ignored otherwise. -/
def State.adoption (s : State) (g : BitVec 16) : State :=
  if s.engine.state = .publishing ∧ g = s.publisher.published ∧ s.publisher.frameSent = some true then
    ((s.setPublisher { s.publisher with adopted := s.publisher.published }).changeState
      .verifying).verifyingEntry
  else s

/-- A header word: 0x5A beginning after the line has stood idle for a word time (R201). -/
def isHeader (data : Byte) (afterIdle : Bool) : Bool := afterIdle && data == 0x5A#8

def State.setReceiver (s : State) (r : Option (List Byte)) : State :=
  s.setPublisher { s.publisher with receiver := r }

/-- A complete adoption frame: handed on when its CRC agrees, else discarded (R156). -/
def State.adoptionClosed (s : State) (frame : List Byte) : State :=
  match frame with
  | [w0, w1, w2, w3, w4] =>
    if crc16 [w0, w1, w2] = word16 w3 w4 then s.adoption (word16 w1 w2) else s
  | _ => s

/-- A word on the inbound line (R156). -/
def State.adoptionWord (s : State) (data : Byte) (afterIdle : Bool) : State :=
  if isHeader data afterIdle then s.setReceiver (some [data])
  else
    match s.publisher.receiver with
    | none => s
    | some ws =>
      if 5 ≤ (ws ++ [data]).length then (s.setReceiver none).adoptionClosed (ws ++ [data])
      else s.setReceiver (some (ws ++ [data]))

/-! ## Deadlines (R159, R162, R164) -/

def State.adoptDue (s : State) : Bool :=
  (s.engine.state == .publishing) && reached s.time s.publisher.adoptDeadline (millis s.params.tADOPT)

def State.minDue (s : State) : Bool :=
  (s.engine.state == .verifying) && !s.publisher.minElapsed
    && reached s.time s.publisher.minTimer (millis s.params.tVMIN)

/-- The minimum timer expires: its elapsed mark is set and the pass condition tested (R162). -/
def State.minExpiry (s : State) : State :=
  (s.setPublisher { s.publisher with minElapsed := true }).passTest

def State.verDue (s : State) : Bool :=
  (s.engine.state == .verifying) && reached s.time s.publisher.verDeadline (millis s.params.tVER)

/-- The verified records short of K_CLEAN, in position order (R164). -/
def State.shortSet (s : State) : List Pos := (s.publisher.verified.getD []).filter s.short

/-- A VERIFY_FAIL fault (R61): taken by R59 without a fault notice, against an active record (R5). -/
def State.verifyFail (s : State) (p : Pos) : State :=
  if (s.record p).state.active then s.applyFault p .verifyFail s.time else s

/-- The verification deadline (R164). -/
def State.verExpiry (s : State) : State :=
  if s.shortSet.isEmpty then s.verificationPassed
  else ((s.shortSet.foldl State.verifyFail s).endPass .endedByVerify).accounting

/-! ## Meanings -/

/-- SET_FRAME_SENT (R155). -/
def execSetFrameSent (s : State) : Host.Outcome State Fault Refusal :=
  .next (s.whenDue s.frameDue fun s => s.frameEnd)

/-- ADOPTION_FRAME (R158): a valid adoption frame with its generation. -/
def execAdoptionFrame (g : BitVec 16) (s : State) : Host.Outcome State Fault Refusal :=
  .next (s.whileRunning fun s => (s.setReceiver none).adoption g)

/-- ADOPTION_WORD (R156). -/
def execAdoptionWord (w : BitVec 10) (afterIdle : Bool) (s : State) : Host.Outcome State Fault Refusal :=
  .next (s.whileRunning fun s => s.adoptionWord (modData w) afterIdle)

/-- ADOPTION_DEADLINE_EXPIRY (R159). -/
def execAdoptionDeadlineExpiry (s : State) : Host.Outcome State Fault Refusal :=
  .next (s.whenDue s.adoptDue fun s => s.lockout .modulator)

/-- MINIMUM_TIMER_EXPIRY (R162). -/
def execMinimumTimerExpiry (s : State) : Host.Outcome State Fault Refusal :=
  .next (s.whenDue s.minDue fun s => s.minExpiry)

/-- VERIFICATION_DEADLINE_EXPIRY (R164). -/
def execVerificationDeadlineExpiry (s : State) : Host.Outcome State Fault Refusal :=
  .next (s.whenDue s.verDue fun s => s.verExpiry)

end Sys2Proof.Machine
end

