-- ==== Sys2Proof/Machine/Requests.lean ====
section
/-! DEFINITION. How a host request is executed (R175, R176), and the requests on records (R20 to R29)
and links (R50). -/

namespace Sys2Proof.Machine

/-! ## Requests and their answers -/

/-- What an owning rule answers: the answer code, the payload, and in an ACK's reply the flags it named
(R181). -/
structure Reply where
  code : AnswerCode
  payload : List Byte
  acked : Byte := 0x00
  deriving DecidableEq, Repr

/-- A refusal: no payload (R176). -/
def Reply.refusal (c : AnswerCode) : Reply where
  code := c
  payload := []

def Reply.done (payload : List Byte) : Reply where
  code := .done
  payload := payload

/-- The outcome of a request: its reply and the state after its whole event (R175). -/
structure Executed where
  reply : Reply
  state : State

/-- A request that changes no state of the part's: a refusal, or a read (R20). -/
def State.reply (s : State) (r : Reply) : Executed where
  reply := r
  state := s

/-- The answer is held by the port, PREPARING from the CS_N rising that executed the request (R170). -/
def State.answered (s : State) (tag : Byte) (r : Reply) : State :=
  (s.setCsN true).setPort
    { s.port with
      state := .preparing s.time
      answer := some { code := r.code, tag := tag, payload := r.payload, acked := r.acked }
      miso := [] }

/-- A request handed to its owning block and executed as one event (R174 step 3, R175). While a reset is
held or the supply is lost no request reaches a block (R188). -/
def State.request (s : State) (tag : Byte) (op : State → Executed) : State :=
  s.whileRunning fun s => (op s).state.answered tag (op s).reply

/-! ## Reading requests (R21 to R24, R50) -/

def requestLookup (position : Byte) (s : State) : Executed :=
  match posOfByte position with
  | some p => s.reply (.done (recordPayload p (s.record p)))
  | none => s.reply (.refusal .badArgument)

def requestFindChannel (channel : Byte) (s : State) : Executed :=
  match chanOfByte channel with
  | some ch =>
    match s.channelPos ch with
    | some p => s.reply (.done (item1 p.val))
    | none => s.reply (.refusal .notFound)
  | none => s.reply (.refusal .badArgument)

def requestFindSerial (serial : BitVec 32) (s : State) : Executed :=
  if serial = 0 then s.reply (.refusal .badArgument)
  else
    match s.serialPos serial with
    | some p => s.reply (.done (item1 p.val))
    | none => s.reply (.refusal .notFound)

def requestList (stateCode : Byte) (s : State) : Executed :=
  match RecordState.ofCode stateCode.toNat with
  | some st =>
    s.reply (.done (byteOf (s.positionsIn st).length :: (s.positionsIn st).map fun p => byteOf p.val))
  | none => s.reply (.refusal .badArgument)

/-- The payload of LINK_STATUS (R50). The table of item widths (R201) names neither the error score nor
the sequence number; one byte each, as for every count and index below 256, is the model's reading (DEDUCED,
assumption 15). -/
def linkPayload (l : Link) (assigned : Option Pos) : List Byte :=
  item1 l.rx.link.code ++ item1 l.rx.score ++ cond1 (l.rx.lastSeq.map (·.toNat))
    ++ item1 (bitCode l.rx.degraded) ++ item1 (bitCode l.tx.faultReset) ++ cond1 (assigned.map (·.val))

def requestLinkStatus (channel : Byte) (s : State) : Executed :=
  match chanOfByte channel with
  | some ch => s.reply (.done (linkPayload (s.link ch) (s.channelPos ch)))
  | none => s.reply (.refusal .badArgument)

/-! ## ENROL (R25, R26) -/

/-- The record of an accepted ENROL (R26); the contact is the scan's and is kept. -/
def Record.enrolled (r : Record) (ch : Chan) (serial : BitVec 32) (tally : Nat) (dormant : Bool)
    (ps : Params) : Record :=
  { Record.initial with
    contact := r.contact
    channel := some ch
    serial := some serial
    tally := min 15 tally
    cleanRun := some 0
    state :=
      if r.contact = .closed then (if ps.qLim ≤ min 15 tally then .quarantined else .bypassed)
      else if dormant then .probation else .inService
    probation := if r.contact ≠ .closed ∧ dormant then some ps.tPROB else none }

/-- The checks of ENROL in R25's order: the first that fails, if any. -/
def State.enrolRefusal (s : State) (p : Pos) (ch : Chan) (serial : BitVec 32) : Option AnswerCode :=
  if s.engine.state ≠ .config ∧ s.engine.state ≠ .dormant then some .wrongMode
  else if (s.record p).state ≠ .empty then some .wrongState
  else if (s.channelPos ch).isSome ∨ (s.serialPos serial).isSome then some .duplicate
  else if (s.record p).contact = .unsettled then some .notSettled
  else none

def requestEnrol (position channel : Byte) (serial : BitVec 32) (tally : Byte) (s : State) : Executed :=
  match posOfByte position, chanOfByte channel with
  | some p, some ch =>
    if serial = 0 then s.reply (.refusal .badArgument)
    else
      match s.enrolRefusal p ch serial with
      | some code => s.reply (.refusal code)
      | none =>
        let r := (s.record p).enrolled ch serial tally.toNat (s.engine.state == .dormant) s.params
        { reply := { code := if 15 < tally.toNat then .clamped else .done, payload := item1 r.state.code }
          state := s.setRecord p r }
  | some _, none => s.reply (.refusal .badArgument)
  | none, _ => s.reply (.refusal .badArgument)

/-! ## RETIRE (R27), READMIT (R28) -/

/-- The record of an accepted RETIRE: EMPTY, its contact kept (R27). -/
def Record.retired (r : Record) : Record := { Record.initial with contact := r.contact }

/-- The fault-reset latch of a channel that becomes unassigned is cleared (R49). -/
def State.unassign (s : State) (ch : Option Chan) : State :=
  match ch with
  | some c => s.clearFaultReset c
  | none => s

def requestRetire (position : Byte) (s : State) : Executed :=
  match posOfByte position with
  | none => s.reply (.refusal .badArgument)
  | some p =>
    if (s.record p).state = .empty then s.reply (.refusal .notFound)
    else if s.engine.state ≠ .config ∧ (s.record p).state ≠ .bypassed ∧ (s.record p).state ≠ .quarantined then
      s.reply (.refusal .wrongState)
    else
      { reply := .done []
        state := (s.unassign (s.record p).channel).setRecord p (s.record p).retired }

def requestReadmit (position : Byte) (s : State) : Executed :=
  match posOfByte position with
  | none => s.reply (.refusal .badArgument)
  | some p =>
    if s.engine.state ≠ .dormant then s.reply (.refusal .wrongMode)
    else if (s.record p).state ≠ .bypassed then s.reply (.refusal .wrongState)
    else
      { reply := .done []
        state := (s.setRecord p { s.record p with state := .opening }).listOpen p s.time }

/-! ## CLEAR_TALLY (R29) -/

/-- The positions of a scope: kind 0 a position, 1 a phase, 2 all (R20, R201). -/
def scopeOf (kind index : Byte) : Option (List Pos) :=
  match kind.toNat with
  | 0 => (posOfByte index).map fun p => [p]
  | 1 => if index.toNat ≤ 2 then some (phasePositions index.toNat) else none
  | 2 => some allPositions
  | _ => none

/-- A record in scope: tally 0, and QUARANTINED released to BYPASSED (R29). -/
def Record.tallyCleared (r : Record) : Record :=
  { r with tally := 0, state := if r.state = .quarantined then .bypassed else r.state }

/-- A released record whose contact reads OPEN: the CONFIG follow, or a CONTACT_OPEN report that the
intake takes (R29, R58). -/
def State.releasedOpen (s : State) (p : Pos) : State :=
  if s.engine.state = .config then s.setRecord p ((s.record p).follow false s.params.qLim)
  else if (s.record p).state = .bypassed then s.takeContactOpen p else s

def requestClearTally (kind index : Byte) (s : State) : Executed :=
  match scopeOf kind index with
  | none => s.reply (.refusal .badArgument)
  | some scope =>
    let released := scope.filter fun p => (s.record p).state == .quarantined
    let opened := released.filter fun p => (s.record p).contact == .opened
    let s1 := s.mapRecords fun p r => if scope.contains p then r.tallyCleared else r
    { reply := .done (item1 released.length), state := opened.foldl State.releasedOpen s1 }

/-! ## Meanings -/

/-- LOOKUP (R21). -/
def execLookup (tag position : Byte) (s : State) : Host.Outcome State Fault Refusal :=
  .next (s.request tag (requestLookup position))

/-- FIND_CHANNEL (R22). -/
def execFindChannel (tag channel : Byte) (s : State) : Host.Outcome State Fault Refusal :=
  .next (s.request tag (requestFindChannel channel))

/-- FIND_SERIAL (R23). -/
def execFindSerial (tag : Byte) (serial : BitVec 32) (s : State) : Host.Outcome State Fault Refusal :=
  .next (s.request tag (requestFindSerial serial))

/-- LIST (R24). -/
def execList (tag stateCode : Byte) (s : State) : Host.Outcome State Fault Refusal :=
  .next (s.request tag (requestList stateCode))

/-- LINK_STATUS (R50). -/
def execLinkStatus (tag channel : Byte) (s : State) : Host.Outcome State Fault Refusal :=
  .next (s.request tag (requestLinkStatus channel))

/-- ENROL (R25, R26). -/
def execEnrol (tag position channel : Byte) (serial : BitVec 32) (tally : Byte) (s : State) :
    Host.Outcome State Fault Refusal :=
  .next (s.request tag (requestEnrol position channel serial tally))

/-- RETIRE (R27). -/
def execRetire (tag position : Byte) (s : State) : Host.Outcome State Fault Refusal :=
  .next (s.request tag (requestRetire position))

/-- READMIT (R28). -/
def execReadmit (tag position : Byte) (s : State) : Host.Outcome State Fault Refusal :=
  .next (s.request tag (requestReadmit position))

/-- CLEAR_TALLY (R29). -/
def execClearTally (tag kind index : Byte) (s : State) : Host.Outcome State Fault Refusal :=
  .next (s.request tag (requestClearTally kind index))

end Sys2Proof.Machine
end

