-- ==== Sys2Proof/Machine/RatingTables.lean ====
section
/-! DEFINITION. The rating tables and their requests (R139 to R148). -/

namespace Sys2Proof.Machine

/-- A valid key: counts 1 to 10, sorted, not all equal (R140). -/
def Key.valid (k : Key) : Bool :=
  decide (1 ≤ k.j ∧ k.j ≤ k.i ∧ k.i ≤ k.h ∧ k.h ≤ 10 ∧ ¬(k.h = k.i ∧ k.i = k.j))

/-- Ascending key order: h first, then i, then j (R139). -/
def Key.below (a b : Key) : Bool :=
  decide (a.h < b.h ∨ (a.h = b.h ∧ (a.i < b.i ∨ (a.i = b.i ∧ a.j < b.j))))

def keyOfBytes (h i j : Byte) : Key where
  h := h.toNat
  i := i.toNat
  j := j.toNat

/-- A well-formed angle set: each in 1 to 35999, summing to 36000 (R141). -/
def anglesWellFormed (hi ij jh : Nat) : Bool :=
  decide (1 ≤ hi ∧ hi ≤ 35999 ∧ 1 ≤ ij ∧ ij ≤ 35999 ∧ 1 ≤ jh ∧ jh ≤ 35999 ∧ hi + ij + jh = 36000)

/-- The engine states in which an amending request is accepted (R148). -/
def EngineState.amends : EngineState → Bool
  | .config | .dormant | .lockout => true
  | .charging | .halted | .bypassing | .publishing | .verifying | .proving | .running => false

def State.setShift (s : State) (l : List ShiftEntry) : State :=
  s.setTables { s.tables with shift := l }

/-- An entry's ordinal: the number of entries with lower keys (R139). -/
def ordinalOf (k : Key) (l : List ShiftEntry) : Nat := (l.filter fun e => e.key.below k).length

/-- A new entry at its place in key order (R142). -/
def insertShift (e : ShiftEntry) : List ShiftEntry → List ShiftEntry
  | [] => [e]
  | x :: rest => if e.key.below x.key then e :: x :: rest else x :: insertShift e rest

/-- The entry of a present key replaced (R142). -/
def replaceShift (e : ShiftEntry) (l : List ShiftEntry) : List ShiftEntry :=
  l.map fun x => if x.key = e.key then e else x

def requestLoadShift (h i j : Byte) (hi ij jh fsh : BitVec 16) (s : State) : Executed :=
  let k := keyOfBytes h i j
  if !k.valid || !anglesWellFormed hi.toNat ij.toNat jh.toNat then s.reply (.refusal .badArgument)
  else if !s.engine.state.amends then s.reply (.refusal .wrongMode)
  else
    let present := (findShift s.tables.shift k).isSome
    if !present && decide (Config.shiftCapacity ≤ s.tables.shift.length) then s.reply (.refusal .full)
    else
      let e : ShiftEntry :=
        { key := k, hi := hi.toNat, ij := ij.toNat, jh := jh.toNat, fsh := min 10000 fsh.toNat }
      let l := if present then replaceShift e s.tables.shift else insertShift e s.tables.shift
      { reply :=
          { code := if 10000 < fsh.toNat then .clamped else .done
            payload := item1 (ordinalOf k l) ++ item1 l.length ++ item1 (bitCode present) ++ bytes2 e.fsh }
        state := s.setShift l }

def requestDropShift (h i j : Byte) (s : State) : Executed :=
  let k := keyOfBytes h i j
  if !k.valid then s.reply (.refusal .badArgument)
  else if !s.engine.state.amends then s.reply (.refusal .wrongMode)
  else if (findShift s.tables.shift k).isNone then s.reply (.refusal .notFound)
  else
    let l := s.tables.shift.filter fun e => !(e.key == k)
    { reply := .done (item1 l.length), state := s.setShift l }

/-- The payload of a found entry (R144). -/
def shiftPayload (l : List ShiftEntry) (e : ShiftEntry) : List Byte :=
  item1 (ordinalOf e.key l) ++ item1 l.length ++ item1 e.key.h ++ item1 e.key.i ++ item1 e.key.j
    ++ bytes2 e.hi ++ bytes2 e.ij ++ bytes2 e.jh ++ bytes2 e.fsh

/-- The NOT_FOUND answer of READ_SHIFT carries the number of entries (R144, R176). -/
def shiftMissing (l : List ShiftEntry) : Reply where
  code := .notFound
  payload := item1 l.length

/-- READ_SHIFT: selector 0 KEY, 1 ORDINAL (R144, R201). -/
def requestReadShift (selector a b c : Byte) (s : State) : Executed :=
  let l := s.tables.shift
  match selector.toNat with
  | 0 =>
    if !(keyOfBytes a b c).valid then s.reply (.refusal .badArgument)
    else
      match findShift l (keyOfBytes a b c) with
      | some e => s.reply (.done (shiftPayload l e))
      | none => s.reply (shiftMissing l)
  | 1 =>
    if 63 < a.toNat then s.reply (.refusal .badArgument)
    else
      match l[a.toNat]? with
      | some e => s.reply (.done (shiftPayload l e))
      | none => s.reply (shiftMissing l)
  | _ => s.reply (.refusal .badArgument)

/-- Attempt 1 to 15 and direction 0 or 1 (R146, R147). -/
def scaleArgumentsValid (attempt direction : Byte) : Bool :=
  decide (1 ≤ attempt.toNat ∧ attempt.toNat ≤ 15 ∧ direction.toNat ≤ 1)

/-- A value brought within bounds. -/
def clampTo (lo hi v : Nat) : Nat := max lo (min hi v)

def requestLoadScale (attempt direction ramp proving : Byte) (s : State) : Executed :=
  if !scaleArgumentsValid attempt direction then s.reply (.refusal .badArgument)
  else if !s.engine.state.amends then s.reply (.refusal .wrongMode)
  else
    let e : ScaleEntry := { ramp := clampTo 1 64 ramp.toNat, proving := clampTo 20 150 proving.toNat }
    { reply :=
        { code := if e.ramp = ramp.toNat ∧ e.proving = proving.toNat then .done else .clamped
          payload := item1 (min 8 attempt.toNat) ++ item1 direction.toNat ++ item1 e.ramp ++ item1 e.proving }
      state := s.setTables { s.tables with
        scale := s.tables.scale.set (scaleIndex attempt.toNat (direction.toNat == 1)) e } }

def requestReadScale (attempt direction : Byte) (s : State) : Executed :=
  if !scaleArgumentsValid attempt direction then s.reply (.refusal .badArgument)
  else
    let e := s.tables.scale[scaleIndex attempt.toNat (direction.toNat == 1)]
    s.reply (.done (item1 (min 8 attempt.toNat) ++ item1 direction.toNat ++ item1 e.ramp ++ item1 e.proving))

/-! ## Meanings -/

/-- LOAD_SHIFT (R142). -/
def execLoadShift (tag h i j : Byte) (hi ij jh fsh : BitVec 16) (s : State) :
    Host.Outcome State Fault Refusal :=
  .next (s.request tag (requestLoadShift h i j hi ij jh fsh))

/-- DROP_SHIFT (R143). -/
def execDropShift (tag h i j : Byte) (s : State) : Host.Outcome State Fault Refusal :=
  .next (s.request tag (requestDropShift h i j))

/-- READ_SHIFT (R144). -/
def execReadShift (tag selector a b c : Byte) (s : State) : Host.Outcome State Fault Refusal :=
  .next (s.request tag (requestReadShift selector a b c))

/-- LOAD_SCALE (R146). -/
def execLoadScale (tag attempt direction ramp proving : Byte) (s : State) : Host.Outcome State Fault Refusal :=
  .next (s.request tag (requestLoadScale attempt direction ramp proving))

/-- READ_SCALE (R147). -/
def execReadScale (tag attempt direction : Byte) (s : State) : Host.Outcome State Fault Refusal :=
  .next (s.request tag (requestReadScale attempt direction))

end Sys2Proof.Machine
end

