-- ==== Sys2Proof/Machine/Commissioning.lean ====
section
/-! DEFINITION. Parameters (R192 to R197), START (R198, R199), the engine's requests SUMMARY (R117) and
CLEAR_LOCKOUT (R115), resets and the reset-cause record (R187 to R191). -/

namespace Sys2Proof.Machine

/-! ## Parameters -/

/-- The range of a parameter by its number (R192). -/
def paramRange : Nat → Option (Nat × Nat)
  | 0 => some (1, 10)
  | 1 => some (1, 10)
  | 2 => some (0, 10000)
  | 3 => some (0, 2000)
  | 4 => some (50, 1500)
  | 5 => some (0, 15)
  | 6 => some (1, 15)
  | 7 => some (1, 15)
  | 8 => some (0, 31)
  | 9 => some (0, 1023)
  | 10 => some (0, 1023)
  | 11 => some (0, 1)
  | 12 => some (2, 50)
  | 13 => some (0, 50000)
  | 14 => some (10, 250)
  | 15 => some (50, 2000)
  | 16 => some (50, 1000)
  | 17 => some (100, 2000)
  | 18 => some (5, 300)
  | 19 => some (100, 10000)
  | 20 => some (1, 100)
  | 21 => some (0, 5000)
  | 22 => some (100, 30000)
  | 23 => some (1, 30)
  | 24 => some (10, 3600)
  | 25 => some (60, 36000)
  | _ => none

/-- The stored value of a parameter by its number (R192, R195). -/
def Params.get (ps : Params) : Nat → Nat
  | 0 => ps.nRated
  | 1 => ps.nMin
  | 2 => ps.sFloor
  | 3 => ps.mV
  | 4 => ps.rBase
  | 5 => ps.aLim
  | 6 => ps.aMan
  | 7 => ps.qLim
  | 8 => ps.kClean
  | 9 => ps.vLo
  | 10 => ps.vHi
  | 11 => ps.policy
  | 12 => ps.tHO
  | 13 => ps.tCC
  | 14 => ps.tFW
  | 15 => ps.tREC
  | 16 => ps.tBC
  | 17 => ps.tSIL
  | 18 => ps.tWAKE
  | 19 => ps.tBRK
  | 20 => ps.tADOPT
  | 21 => ps.tVMIN
  | 22 => ps.tVER
  | 23 => ps.tPRV
  | 24 => ps.tCLEAN
  | _ => ps.tPROB

/-- Storing a value already within the parameter's range, with the cross-clamps (R193, R194). -/
def Params.store (ps : Params) (n v : Nat) : Params :=
  match n with
  | 0 => { ps with nRated := v }
  | 1 => { ps with nMin := v }
  | 2 => { ps with sFloor := v }
  | 3 => { ps with mV := v }
  | 4 => { ps with rBase := v }
  | 5 => { ps with aLim := v }
  | 6 => { ps with aMan := v }
  | 7 => { ps with qLim := v }
  | 8 => { ps with kClean := v }
  | 9 => { ps with vLo := v, vHi := if ps.vHi = 0 then 0 else max ps.vHi v }
  | 10 => { ps with vHi := if v = 0 then 0 else max v ps.vLo }
  | 11 => { ps with policy := v }
  | 12 => { ps with tHO := v, tCC := min ps.tCC (1000 * v) }
  | 13 => { ps with tCC := min v (1000 * ps.tHO) }
  | 14 => { ps with tFW := v }
  | 15 => { ps with tREC := v }
  | 16 => { ps with tBC := v }
  | 17 => { ps with tSIL := v }
  | 18 => { ps with tWAKE := v }
  | 19 => { ps with tBRK := v }
  | 20 => { ps with tADOPT := v }
  | 21 => { ps with tVMIN := v, tVER := max ps.tVER v }
  | 22 => { ps with tVER := max v ps.tVMIN }
  | 23 => { ps with tPRV := v }
  | 24 => { ps with tCLEAN := v }
  | 25 => { ps with tPROB := v }
  | _ => ps

/-- A lower tSIL that silence timers have already reached detects silence in the SET_PARAM's event
(R44, R197). -/
def State.detectSilences (s : State) : State :=
  (List.finRange 32).foldl (fun t ch => if t.silenceDue ch then t.silenceDetected ch else t) s

def requestSetParam (number : Byte) (value : BitVec 32) (s : State) : Executed :=
  match paramRange number.toNat with
  | none => s.reply (.refusal .badArgument)
  | some (lo, hi) =>
    if s.engine.state ≠ .config then s.reply (.refusal .wrongMode)
    else
      let ps := s.params.store number.toNat (clampTo lo hi value.toNat)
      let stored := ps.get number.toNat
      let s1 := s.setParams ps
      { reply :=
          { code := if stored = value.toNat then .done else .clamped, payload := bytes4 stored }
        state := if number.toNat = 17 then s1.detectSilences else s1 }

def requestGetParam (number : Byte) (s : State) : Executed :=
  match paramRange number.toNat with
  | none => s.reply (.refusal .badArgument)
  | some _ => s.reply (.done (bytes4 (s.params.get number.toNat)))

/-! ## START (R198, R199) -/

/-- IN_SERVICE records of a phase (R198). -/
def State.inServiceCount (s : State) (q : Nat) : Nat :=
  ((phasePositions q).filter fun p => (s.record p).state == .inService).length

/-- A phase with fewer than N_MIN records in IN_SERVICE (R198). -/
def State.incomplete (s : State) : Bool :=
  s.inServiceCount 0 < s.params.nMin || s.inServiceCount 1 < s.params.nMin || s.inServiceCount 2 < s.params.nMin

/-- An accepted START (R94, R199). -/
def State.started (s : State) : State :=
  let s1 := if s.energized then s.enterCharging else s.changeState .dormant
  if s.estopN then s1 else s1.lockout .estop

def requestStart (s : State) : Executed :=
  if s.engine.state ≠ .config then s.reply (.refusal .wrongMode)
  else if s.incomplete then s.reply (.refusal .incomplete)
  else { reply := .done [], state := s.started }

/-! ## SUMMARY (R117) -/

/-- The payload of SUMMARY in the order of R117's table. -/
def State.summaryPayload (s : State) : List Byte :=
  item1 s.engine.state.code ++ item1 s.engine.attempts ++ item1 (s.params.limitInForce s.manride)
    ++ cond1 (s.engine.sampledManride.map bitCode) ++ cond1 (s.engine.sampledDir.map bitCode)
    ++ cond1 (s.engine.cause.map (·.code))
    ++ cond1 (s.engine.pass.map (·.kind.code)) ++ cond1 (s.engine.pass.map (·.attempt))
    ++ cond1 ((s.engine.pass.bind (·.outcome)).map (·.code))
    ++ cond2 (s.engine.cleanRun.map (·.remaining)) ++ resultPayload s.result
    ++ bytes2 s.publisher.published.toNat ++ bytes2 s.publisher.adopted.toNat

def requestSummary (s : State) : Executed := s.reply (.done s.summaryPayload)

/-! ## CLEAR_LOCKOUT (R115) -/

/-- The relisting of one record (R12): the close-failed mark cleared, a CLOSE entry without hold-off
mark or hold listed at the time of acceptance. -/
def State.relist (s : State) (p : Pos) : State :=
  if (s.record p).closeFailed then
    (s.setRecord p { s.record p with closeFailed := false }).listClose p s.time false false
  else s

/-- An accepted CLEAR_LOCKOUT (R115). -/
def State.lockoutCleared (s : State) : State :=
  let s1 := allPositions.foldl State.relist s
  let s2 := (s1.setEngine { s1.engine with attempts := 1, cause := none }).sampleLines
  if s2.energized then s2.enterBypassing .restart else s2.changeState .dormant

def requestClearLockout (s : State) : Executed :=
  if s.engine.state ≠ .lockout ∨ s.estopN = false ∨ s.brakeSet = false then s.reply (.refusal .wrongMode)
  else { reply := .done [], state := s.lockoutCleared }

/-! ## READ_CAUSE (R191) -/

def ResetRecord.payload (r : ResetRecord) : List Byte :=
  item1 r.cause.code ++ cond1 (r.engine.map (·.code)) ++ item1 (bitCode r.pulseCut)

def requestReadCause (s : State) : Executed := s.reply (.done s.port.resetRecord.payload)

/-! ## Resets (R187 to R190) -/

/-- Input lines across a reset: the presented levels are the outside's and stay; nothing is qualified
(R188, R204). -/
def Lines.unqualified (l : Lines) : Lines where
  energized := .presented l.energized.pin
  estopN := .presented l.estopN.pin
  brakeSet := .presented l.brakeSet.pin
  proven := .presented l.proven.pin
  manride := .presented l.manride.pin
  dir := .presented l.dir.pin

/-- Every block at its after-reset values (R187, R188), with a mode and a reset-cause record. The pins,
the waiting commands and the model's counter of free choices are no block's and stay. -/
def State.blocksReset (s : State) (mode : Mode) (record : ResetRecord) : State :=
  { State.reset with
    mode := mode
    lines := s.lines.unqualified
    sense := s.sense
    csN := s.csN
    matrix := { Matrix.initial with dwell := none }
    port := Port.initial record
    choices := s.choices
    pending := s.pending }

/-- The firing unit is FIRING (R89, R189). -/
def State.isFiring (s : State) : Bool :=
  match s.matrix.unit with
  | .firing _ _ _ => true
  | .idle => false
  | .settling _ _ _ _ => false
  | .recovering _ => false

/-- The state fields of the reset-cause record as a reset finds them, kept from the moment the part
first stopped (R189, R190). -/
def State.causeRecord (s : State) (cause : ResetCause) : ResetRecord :=
  match s.mode with
  | .running => { cause := cause, engine := some s.engine.state, pulseCut := s.isFiring }
  | .held _ | .off => { s.port.resetRecord with cause := cause }

/-- A power-on reset begins: no engine state and no pulse cut in the record (R189). -/
def State.powerOn (s : State) : State :=
  s.blocksReset (.held .powerOn) { cause := .powerOn, engine := none, pulseCut := false }

/-- A pin reset begins; without supply the pin is not read (R190). -/
def State.pinReset (s : State) : State :=
  match s.mode with
  | .running | .held _ => s.blocksReset (.held .pin) (s.causeRecord .pin)
  | .off => s

/-- A request reset begins with the execution of RESET at the CS_N rising (R184). -/
def State.requestReset (s : State) : State :=
  (s.setCsN true).blocksReset (.held .request) (s.causeRecord .request)

/-- The port at the end of a reset of a cause. After a request reset, a transaction begun before the NONE
answer was ready is early (R184): its request is discarded, and from now on MISO carries the status byte with
ANSWER_READY clear, which read the same at its CS_N falling (R172). After a pin or power-on reset an open
transaction is not taken (R185). Assumption 21. -/
def State.portAtEnd (s : State) (c : ResetCause) : Port :=
  match c, s.csN with
  | .request, false => { s.port with state := .early 0 true, miso := [s.statusByte false] }
  | .request, true => { s.port with state := .ready }
  | .powerOn, _ => { s.port with state := .ready }
  | .pin, _ => { s.port with state := .ready }

/-- The end of a reset (R188): the time base is 0, the first dwell and the first downlink boundary
begin, and the NONE answer is ready. -/
def State.resetEnd (s : State) : State :=
  match s.mode with
  | .held c =>
    (((((s.setMode .running).setTime 0).setDownlinkSince 0).setLines s.lines.unqualified).setMatrix
      { s.matrix with dwell := some 0 }).setPort (s.portAtEnd c)
  | .running => s
  | .off => s

/-- The supply falls below its threshold: the part's state is lost (R190). Nothing of it can be read
before the power-on reset that follows, which writes every field (assumption 6). -/
def State.supplyLost (s : State) : State :=
  s.blocksReset .off { cause := .powerOn, engine := none, pulseCut := false }

/-! ## Meanings -/

/-- SET_PARAM (R193). -/
def execSetParam (tag number : Byte) (value : BitVec 32) (s : State) : Host.Outcome State Fault Refusal :=
  .next (s.request tag (requestSetParam number value))

/-- GET_PARAM (R195). -/
def execGetParam (tag number : Byte) (s : State) : Host.Outcome State Fault Refusal :=
  .next (s.request tag (requestGetParam number))

/-- START (R198). -/
def execStart (tag : Byte) (s : State) : Host.Outcome State Fault Refusal :=
  .next (s.request tag requestStart)

/-- SUMMARY (R117). -/
def execSummary (tag : Byte) (s : State) : Host.Outcome State Fault Refusal :=
  .next (s.request tag requestSummary)

/-- CLEAR_LOCKOUT (R115). -/
def execClearLockout (tag : Byte) (s : State) : Host.Outcome State Fault Refusal :=
  .next (s.request tag requestClearLockout)

/-- READ_CAUSE (R191). -/
def execReadCause (tag : Byte) (s : State) : Host.Outcome State Fault Refusal :=
  .next (s.request tag requestReadCause)

/-- RESET (R184): no answer of its own. -/
def execReset (s : State) : Host.Outcome State Fault Refusal :=
  .next (s.whileRunning State.requestReset)

/-- POWER_ON_RESET (R187). -/
def execPowerOnReset (s : State) : Host.Outcome State Fault Refusal := .next s.powerOn

/-- PIN_RESET (R187). -/
def execPinReset (s : State) : Host.Outcome State Fault Refusal := .next s.pinReset

/-- RESET_END (R188). -/
def execResetEnd (s : State) : Host.Outcome State Fault Refusal := .next s.resetEnd

/-- SUPPLY_LOSS (R190). -/
def execSupplyLoss (s : State) : Host.Outcome State Fault Refusal := .next s.supplyLost

end Sys2Proof.Machine
end

