-- ==== Sys2Proof/Machine/Port.lean ====
section
/-! DEFINITION. The roster port: transactions (R169 to R172), request frames and their judgment (R173,
R174), the request catalogue, and the port's own requests NOP, ACK and SET_MASK (R179, R181, R182). -/

namespace Sys2Proof.Machine

/-! ## The port's own requests -/

def requestNop (s : State) : Executed := s.reply (.done [])

/-- ACK clears each flag named and answers the flags that stand after it. A flag it named that is set again
at the moment of its execution stands set in that answer (R181, `Answer.settled`); what comes later does not
change the prepared answer (R175). The note to R181 and the session after R186 show a flag set later in the
answer too: DESIGN CHOICE, assumption 27. -/
def requestAck (flags : Byte) (s : State) : Executed :=
  let s1 := s.setPort { s.port with flags := s.port.flags &&& ~~~flags }
  { reply := { code := .done, payload := [s1.port.flags], acked := flags }, state := s1 }

/-- SET_MASK replaces the mask and answers it with the flags (R182). -/
def requestSetMask (enables : Byte) (s : State) : Executed :=
  { reply := .done [enables, s.port.flags]
    state := s.setPort { s.port with mask := enables } }

/-! ## The request catalogue (R174) -/

/-- The payload length L that each request code must carry; none for a code outside 0x01 to 0x18. -/
def catalogueLength : Nat → Option Nat
  | 0x01 => some 0
  | 0x02 => some 1
  | 0x03 => some 1
  | 0x04 => some 4
  | 0x05 => some 1
  | 0x06 => some 1
  | 0x07 => some 7
  | 0x08 => some 1
  | 0x09 => some 1
  | 0x0A => some 2
  | 0x0B => some 5
  | 0x0C => some 1
  | 0x0D => some 0
  | 0x0E => some 11
  | 0x0F => some 3
  | 0x10 => some 4
  | 0x11 => some 4
  | 0x12 => some 2
  | 0x13 => some 0
  | 0x14 => some 0
  | 0x15 => some 1
  | 0x16 => some 1
  | 0x17 => some 0
  | 0x18 => some 0
  | _ => none

/-- The request that a code and a payload of the catalogue's length name (R174, R201), as a command;
the tag is the frame's. -/
def requestOf (code : Nat) (tag : Byte) (payload : List Byte) : Option Instr :=
  match code, payload with
  | 0x01, [] => some (.nop tag)
  | 0x02, [p] => some (.lookup tag p)
  | 0x03, [c] => some (.findChannel tag c)
  | 0x04, [a, b, c, d] => some (.findSerial tag (word32 a b c d))
  | 0x05, [st] => some (.list tag st)
  | 0x06, [c] => some (.linkStatus tag c)
  | 0x07, [p, ch, a, b, c, d, t] => some (.enrol tag p ch (word32 a b c d) t)
  | 0x08, [p] => some (.retire tag p)
  | 0x09, [p] => some (.readmit tag p)
  | 0x0A, [k, i] => some (.clearTally tag k i)
  | 0x0B, [n, a, b, c, d] => some (.setParam tag n (word32 a b c d))
  | 0x0C, [n] => some (.getParam tag n)
  | 0x0D, [] => some (.start tag)
  | 0x0E, [h, i, j, a1, a0, b1, b0, c1, c0, f1, f0] =>
    some (.loadShift tag h i j (word16 a1 a0) (word16 b1 b0) (word16 c1 c0) (word16 f1 f0))
  | 0x0F, [h, i, j] => some (.dropShift tag h i j)
  | 0x10, [k, a, b, c] => some (.readShift tag k a b c)
  | 0x11, [a, d, r, p] => some (.loadScale tag a d r p)
  | 0x12, [a, d] => some (.readScale tag a d)
  | 0x13, [] => some (.summary tag)
  | 0x14, [] => some (.clearLockout tag)
  | 0x15, [f] => some (.ack tag f)
  | 0x16, [m] => some (.setMask tag m)
  | 0x17, [] => some (.readCause tag)
  | 0x18, [] => some .reset
  | _, _ => none

/-- The state after a request handed to its owning block (R174 step 3, R175). Commands that are no
request change nothing here. -/
def State.perform (s : State) : Instr → State
  | .nop tag => s.request tag requestNop
  | .lookup tag p => s.request tag (requestLookup p)
  | .findChannel tag c => s.request tag (requestFindChannel c)
  | .findSerial tag n => s.request tag (requestFindSerial n)
  | .list tag st => s.request tag (requestList st)
  | .linkStatus tag c => s.request tag (requestLinkStatus c)
  | .enrol tag p c n t => s.request tag (requestEnrol p c n t)
  | .retire tag p => s.request tag (requestRetire p)
  | .readmit tag p => s.request tag (requestReadmit p)
  | .clearTally tag k i => s.request tag (requestClearTally k i)
  | .setParam tag n v => s.request tag (requestSetParam n v)
  | .getParam tag n => s.request tag (requestGetParam n)
  | .start tag => s.request tag requestStart
  | .loadShift tag h i j a b c f => s.request tag (requestLoadShift h i j a b c f)
  | .dropShift tag h i j => s.request tag (requestDropShift h i j)
  | .readShift tag k a b c => s.request tag (requestReadShift k a b c)
  | .loadScale tag a d r p => s.request tag (requestLoadScale a d r p)
  | .readScale tag a d => s.request tag (requestReadScale a d)
  | .summary tag => s.request tag requestSummary
  | .clearLockout tag => s.request tag requestClearLockout
  | .ack tag f => s.request tag (requestAck f)
  | .setMask tag m => s.request tag (requestSetMask m)
  | .readCause tag => s.request tag requestReadCause
  | .reset => s.whileRunning State.requestReset
  | _ => s

/-! ## Request frames (R173, R174) -/

/-- How a received frame is judged: refused by the port with a code and a tag, or a request. -/
inductive Judgment where
  | refused (code : AnswerCode) (tag : Byte)
  | request (i : Instr)
  deriving DecidableEq, Repr

/-- The judgment of the code and the length (R174). -/
def judgeCode (code tag : Byte) (payload : List Byte) : Judgment :=
  match catalogueLength code.toNat with
  | none => .refused .unknownRequest tag
  | some _ =>
    match requestOf code.toNat tag payload with
    | some i => .request i
    | none => .refused .badArgument tag

/-- The judgment of the bytes received in a SERVING transaction (R173): malformed frames are answered
BAD_FRAME with the second byte received as the tag, bytes after the CRC byte are padding. -/
def judgeFrame (bytes : List Byte) : Judgment :=
  match bytes with
  | [] => .refused .badFrame 0x00
  | [_] => .refused .badFrame 0x00
  | [_, tag] => .refused .badFrame tag
  | code :: tag :: len :: rest =>
    if 40 < len.toNat then .refused .badFrame tag
    else
      match rest.drop len.toNat with
      | [] => .refused .badFrame tag
      | crc :: _ =>
        if crc8 (code :: tag :: len :: rest.take len.toNat) = crc then
          judgeCode code tag (rest.take len.toNat)
        else .refused .badFrame tag

/-- The CS_N rising that ends a SERVING transaction (R173 to R175). -/
def State.served (s : State) (mosi : List Bool) : State :=
  match judgeFrame (mosiBytes mosi) with
  | .refused code tag => s.answered tag (.refusal code)
  | .request i => s.perform i

/-! ## Transactions (R170 to R172, R185) -/

/-- A transaction begins with an answer ready: it is taken, its frame completed with the status byte
captured now (R171); an ACK's answer shows the flags set again at its own moment (R181). -/
def State.serve (s : State) : State :=
  s.setPort { s.port with
    state := .serving
    miso := match s.port.answer with
      | some a => answerFrame (s.statusByte true) (a.settled s.port.flags)
      | none => []
    answer := none }

/-- A transaction begins early: a status byte with ANSWER_READY clear, then zeros (R172). -/
def State.beginEarly (s : State) (since : Stamp) : State :=
  s.setPort { s.port with state := .early since false, miso := [s.statusByte false] }

/-- The falling edge of CS_N while the part runs (R170). -/
def State.csFall (s : State) : State :=
  match s.port.state with
  | .ready => s.serve
  | .preparing since => s.beginEarly since
  | .serving => s
  | .early _ _ => s

/-- The rising edge of CS_N while the part runs (R170): an EARLY transaction's request is discarded, and
a transaction that the port did not take after a reset is discarded (R185). -/
def State.csRise (s : State) (mosi : List Bool) : State :=
  match s.port.state with
  | .serving => s.served mosi
  | .early _ true => s.setPort { s.port with state := .ready, miso := [] }
  | .early since false => s.setPort { s.port with state := .preparing since, miso := [] }
  | .ready => s
  | .preparing _ => s

/-- CS_N falls; where it is low already there is no edge. While a reset is held no event reaches the port
(R185, R188); what a transaction begun in a request reset becomes is settled at its end (`State.portAtEnd`). -/
def State.transactionBegin (s : State) : State :=
  if s.csN then
    match s.mode with
    | .running => (s.setCsN false).csFall
    | .held _ | .off => s.setCsN false
  else s

/-- CS_N rises; where it is high already there is no edge. -/
def State.transactionEnd (s : State) (mosi : List Bool) : State :=
  if s.csN then s
  else
    match s.mode with
    | .running => (s.setCsN true).csRise mosi
    | .held _ | .off => s.setCsN true

/-! ## MISO (R169, R171, R172, R185, R201) -/

/-- The n-th byte on MISO in the open transaction: the frame's bytes, then zeros (R171, R172). MISO is
released, and nothing is read, while CS_N is high (R169), while a reset is held (R185, R188) and without
supply. In a transaction that the port did not take after a reset the line is driven, and what it carries is
free (assumption 26). -/
def State.misoByte (s : State) (n : Nat) : Option Byte :=
  match s.csN, s.mode with
  | true, _ => none
  | false, .held _ => none
  | false, .off => none
  | false, .running =>
    match s.port.state with
    | .serving | .early _ _ => some (s.port.miso.getD n 0x00)
    | .ready | .preparing _ => some (Config.untakenMiso s.time.toNat n)

/-- The level of MISO in the n-th bit of the open transaction: each byte is shifted most significant bit
first (R201); none while MISO is released. -/
def State.misoBit (s : State) (n : Nat) : Option Bool :=
  (s.misoByte (n / 8)).map fun b => (byteBits b).getD (n % 8) false

/-- The answer being prepared becomes ready (R170). -/
def State.answerReady (s : State) : State :=
  match s.port.state with
  | .preparing _ => s.setPort { s.port with state := .ready }
  | .early since _ => s.setPort { s.port with state := .early since true }
  | .ready => s
  | .serving => s

/-! ## Meanings -/

/-- NOP (R179). -/
def execNop (tag : Byte) (s : State) : Host.Outcome State Fault Refusal :=
  .next (s.request tag requestNop)

/-- ACK (R181). -/
def execAck (tag flags : Byte) (s : State) : Host.Outcome State Fault Refusal :=
  .next (s.request tag (requestAck flags))

/-- SET_MASK (R182). -/
def execSetMask (tag enables : Byte) (s : State) : Host.Outcome State Fault Refusal :=
  .next (s.request tag (requestSetMask enables))

/-- TRANSACTION_BEGIN (R171). -/
def execTransactionBegin (s : State) : Host.Outcome State Fault Refusal := .next s.transactionBegin

/-- TRANSACTION_END (R173), with the MOSI samples of the transaction. -/
def execTransactionEnd (mosi : List Bool) (s : State) : Host.Outcome State Fault Refusal :=
  .next (s.transactionEnd mosi)

/-- ANSWER_READY (R170). -/
def execAnswerReady (s : State) : Host.Outcome State Fault Refusal :=
  .next (s.whileRunning State.answerReady)

end Sys2Proof.Machine
end

