-- ==== Sys2Proof/Machine/Time.lean ====
section
/-! DEFINITION. What happens on an empty queue: the part's own events that are due, and the passing of
one microsecond with the sampling of the winder inputs and the running-time accruals (R16, R52, R112,
R204). DESIGN CHOICE, assumption 1. -/

namespace Sys2Proof.Machine

/-! ## Winder-input qualification (R204) -/

/-- One sample of a line: the number of samples in a row that agree, up to five. -/
def Line.sampled (l : Line) : Line :=
  if 0 < l.count ∧ l.sample = l.pin then { l with count := min Config.qualifySamples (l.count + 1) }
  else { l with sample := l.pin, count := 1 }

/-- Five agreeing samples pass a level that no event announces: the first level after a reset, and a
change that is no event at the engine (`quiet`, R90). -/
def Line.passed (quiet : Bool → Bool) (l : Line) : Line :=
  if Config.qualifySamples ≤ l.count ∧ (l.qualified.isNone ∨ quiet l.sample) then
    { l with qualified := some l.sample }
  else l

/-- Five agreeing samples of a level other than the qualified one: the new level, as an event. -/
def Line.edgeDue (l : Line) : Option Bool :=
  if Config.qualifySamples ≤ l.count ∧ l.qualified = some (!l.sample) then some l.sample else none

/-- One sample of the six inputs. ESTOP_N rising, PROVEN falling, MANRIDE and DIR are no events
(R90, R95, R110). DESIGN CHOICE, assumption 29: such a change passes here, before every other event of the
microsecond, so an event of that moment that reads the line reads the new level; the spec gives no order. -/
def Lines.sampled (l : Lines) : Lines where
  energized := l.energized.sampled.passed fun _ => false
  estopN := l.estopN.sampled.passed fun level => level
  brakeSet := l.brakeSet.sampled.passed fun _ => false
  proven := l.proven.sampled.passed fun level => !level
  manride := l.manride.sampled.passed fun _ => true
  dir := l.dir.sampled.passed fun _ => true

/-! ## One microsecond -/

/-- An accrual grows while running time passes and holds otherwise (R16, R112). -/
def accrue (running : Bool) (n : Nat) : Nat := if running then n + 1 else n

def CleanRun.accrue (running : Bool) (c : CleanRun) : CleanRun :=
  { c with accrual := Machine.accrue running c.accrual }

/-- The pending answer at the end of a moment: an ACK's is fixed with the flags set again in it (R181). -/
def Port.settled (p : Port) : Port := { p with answer := p.answer.map (Answer.settled p.flags) }

/-- The time base increases by 1 (R52); the winder inputs are sampled every 2 µs (R204), at even values
of the time base (assumption 1). -/
def State.tick (s : State) : State :=
  ((((s.setTime (s.time + 1)).setLines
    (if (s.time + 1).getLsbD 0 then s.lines else s.lines.sampled)).setAccrual
      (accrue s.runningTime s.accrual)).setEngine
        { s.engine with cleanRun := s.engine.cleanRun.map (CleanRun.accrue s.runningTime) }).setPort s.port.settled

/-! ## The part's own events -/

/-- An answer in preparation has reached tANS (R170). -/
def State.answerDue (s : State) : Bool :=
  match s.port.state with
  | .preparing since => decide (Config.answerMicros ≤ elapsed s.time since)
  | .early since false => decide (Config.answerMicros ≤ elapsed s.time since)
  | .early _ true => false
  | .ready => false
  | .serving => false

/-- The event of a condition that holds. -/
def whenHolds (b : Bool) (i : Instr) : List Instr := if b then [i] else []

/-- Qualified edges of the winder inputs (R90, R204). -/
def State.edgesDue (s : State) : List Instr :=
  whenHolds (s.lines.energized.edgeDue == some true) .energizedRising
    ++ whenHolds (s.lines.energized.edgeDue == some false) .energizedFalling
    ++ whenHolds (s.lines.estopN.edgeDue == some false) .estopNFalling
    ++ whenHolds (s.lines.brakeSet.edgeDue == some true) .brakeSetRising
    ++ whenHolds (s.lines.brakeSet.edgeDue == some false) .brakeSetFalling
    ++ whenHolds (s.lines.proven.edgeDue == some true) .provenRising

/-- Every event of the part's own that is due in a state: the timers that have run, the entry that may
be granted, the edges qualified. -/
def State.due (s : State) : List Instr :=
  whenHolds s.answerDue .answerReady
    ++ ((List.finRange 32).filter fun ch => s.silenceDue ch).map Instr.silenceDetected
    ++ whenHolds s.boundaryDue .downlinkBoundary
    ++ (allPositions.filter fun p => s.windowDue p).map Instr.windowExpiry
    ++ ([Eligible.dcOver, .dcUnder, .overtemp].filter fun c => s.groupDue c).map Instr.groupClose
    ++ whenHolds s.dwellDue (.scanDwellEnd s.sense.a s.sense.b s.sense.c)
    ++ (allPositions.filter fun p => s.holdOffDue p).map Instr.holdOffExpiry
    ++ whenHolds s.grantDue .entryGrant
    ++ whenHolds s.pulseDue .pulseEnd
    ++ whenHolds (s.timeoutDue .toClose) .closeTimeout
    ++ whenHolds (s.timeoutDue .toOpen) .openTimeout
    ++ whenHolds s.recoveryDue .recoveryEnd
    ++ whenHolds s.brakeWaitDue .brakeWaitExpiry
    ++ whenHolds s.graceDue .graceExpiry
    ++ whenHolds s.frameDue .setFrameSent
    ++ whenHolds s.adoptDue .adoptionDeadlineExpiry
    ++ whenHolds s.minDue .minimumTimerExpiry
    ++ whenHolds s.verDue .verificationDeadlineExpiry
    ++ whenHolds s.provingDue .provingDeadlineExpiry
    ++ whenHolds s.cleanSecondDue .cleanRunSecond
    ++ whenHolds s.cleanEndDue .cleanRunEnd
    ++ whenHolds s.secondDue .runningTimeSecond
    ++ (allPositions.filter fun p => s.probationDue p).map Instr.probationComplete
    ++ s.edgesDue

/-- One of the events due at a moment is queued; where there are several, which of them is first is free
(assumption 3). -/
def State.queueOne (s : State) (first : Instr) (others : List Instr) : State :=
  match others with
  | [] => s.setPending [first]
  | _ :: _ =>
    (s.setPending [(first :: others).getD (Config.eventChoice s.choices % (others.length + 1)) first]).setChoices
      (s.choices + 1)

/-- The part with nothing pending: an event that is due is queued, and otherwise one microsecond passes.
Time never passes over an event that is due. A request reset and a power-on reset end of themselves
(R187); a pin reset lasts until RST_N rises. DESIGN CHOICE, assumption 28: no level of RST_N is held, so a
power-on reset ends here also where RST_N fell before it or in it and is still low; R187 and R190 do not say
whether the part then stays held. -/
def State.idle (s : State) : State :=
  match s.mode with
  | .running =>
    match s.due with
    | [] => s.tick
    | first :: others => s.queueOne first others
  | .held .pin => s
  | .held .request => s.setPending [.resetEnd]
  | .held .powerOn => s.setPending [.resetEnd]
  | .off => s

end Sys2Proof.Machine
end

