-- ==== Sys2Proof/Machine/Dispatch.lean ====
section
/-! DEFINITION. One arm for each command: a direct call of its meaning. -/

namespace Sys2Proof.Machine

def exec (i : Instr) (s : State) : Host.Outcome State Fault Refusal :=
  match i with
  | .nop tag => Sys2Proof.Machine.execNop tag s
  | .lookup tag position => Sys2Proof.Machine.execLookup tag position s
  | .findChannel tag channel => Sys2Proof.Machine.execFindChannel tag channel s
  | .findSerial tag serial => Sys2Proof.Machine.execFindSerial tag serial s
  | .list tag stateCode => Sys2Proof.Machine.execList tag stateCode s
  | .linkStatus tag channel => Sys2Proof.Machine.execLinkStatus tag channel s
  | .enrol tag position channel serial tally => Sys2Proof.Machine.execEnrol tag position channel serial tally s
  | .retire tag position => Sys2Proof.Machine.execRetire tag position s
  | .readmit tag position => Sys2Proof.Machine.execReadmit tag position s
  | .clearTally tag kind index => Sys2Proof.Machine.execClearTally tag kind index s
  | .setParam tag number value => Sys2Proof.Machine.execSetParam tag number value s
  | .getParam tag number => Sys2Proof.Machine.execGetParam tag number s
  | .start tag => Sys2Proof.Machine.execStart tag s
  | .loadShift tag kh ki kj hi ij jh fsh => Sys2Proof.Machine.execLoadShift tag kh ki kj hi ij jh fsh s
  | .dropShift tag kh ki kj => Sys2Proof.Machine.execDropShift tag kh ki kj s
  | .readShift tag selector a b c => Sys2Proof.Machine.execReadShift tag selector a b c s
  | .loadScale tag attempt direction ramp proving => Sys2Proof.Machine.execLoadScale tag attempt direction ramp proving s
  | .readScale tag attempt direction => Sys2Proof.Machine.execReadScale tag attempt direction s
  | .summary tag => Sys2Proof.Machine.execSummary tag s
  | .clearLockout tag => Sys2Proof.Machine.execClearLockout tag s
  | .ack tag flags => Sys2Proof.Machine.execAck tag flags s
  | .setMask tag enables => Sys2Proof.Machine.execSetMask tag enables s
  | .readCause tag => Sys2Proof.Machine.execReadCause tag s
  | .reset => Sys2Proof.Machine.execReset s
  | .transactionBegin => Sys2Proof.Machine.execTransactionBegin s
  | .transactionEnd mosi => Sys2Proof.Machine.execTransactionEnd mosi s
  | .answerReady => Sys2Proof.Machine.execAnswerReady s
  | .powerOnReset => Sys2Proof.Machine.execPowerOnReset s
  | .pinReset => Sys2Proof.Machine.execPinReset s
  | .resetEnd => Sys2Proof.Machine.execResetEnd s
  | .uplinkFrame channel b0 b1 b2 b3 b4 => Sys2Proof.Machine.execUplinkFrame channel b0 b1 b2 b3 b4 s
  | .badFrame channel kind => Sys2Proof.Machine.execBadFrame channel kind s
  | .silenceDetected channel => Sys2Proof.Machine.execSilenceDetected channel s
  | .downlinkBoundary => Sys2Proof.Machine.execDownlinkBoundary s
  | .windowExpiry position => Sys2Proof.Machine.execWindowExpiry position s
  | .groupClose code => Sys2Proof.Machine.execGroupClose code s
  | .scanDwellEnd senseA senseB senseC => Sys2Proof.Machine.execScanDwellEnd senseA senseB senseC s
  | .holdOffExpiry position => Sys2Proof.Machine.execHoldOffExpiry position s
  | .entryGrant => Sys2Proof.Machine.execEntryGrant s
  | .pulseEnd => Sys2Proof.Machine.execPulseEnd s
  | .closeTimeout => Sys2Proof.Machine.execCloseTimeout s
  | .openTimeout => Sys2Proof.Machine.execOpenTimeout s
  | .recoveryEnd => Sys2Proof.Machine.execRecoveryEnd s
  | .energizedRising => Sys2Proof.Machine.execEnergizedRising s
  | .energizedFalling => Sys2Proof.Machine.execEnergizedFalling s
  | .estopNFalling => Sys2Proof.Machine.execEstopNFalling s
  | .brakeSetRising => Sys2Proof.Machine.execBrakeSetRising s
  | .brakeWaitExpiry => Sys2Proof.Machine.execBrakeWaitExpiry s
  | .graceExpiry => Sys2Proof.Machine.execGraceExpiry s
  | .setFrameSent => Sys2Proof.Machine.execSetFrameSent s
  | .adoptionFrame generation => Sys2Proof.Machine.execAdoptionFrame generation s
  | .adoptionDeadlineExpiry => Sys2Proof.Machine.execAdoptionDeadlineExpiry s
  | .minimumTimerExpiry => Sys2Proof.Machine.execMinimumTimerExpiry s
  | .verificationDeadlineExpiry => Sys2Proof.Machine.execVerificationDeadlineExpiry s
  | .provenRising => Sys2Proof.Machine.execProvenRising s
  | .provingDeadlineExpiry => Sys2Proof.Machine.execProvingDeadlineExpiry s
  | .cleanRunSecond => Sys2Proof.Machine.execCleanRunSecond s
  | .cleanRunEnd => Sys2Proof.Machine.execCleanRunEnd s
  | .runningTimeSecond => Sys2Proof.Machine.execRunningTimeSecond s
  | .probationComplete position => Sys2Proof.Machine.execProbationComplete position s
  | .uplinkWord channel word => Sys2Proof.Machine.execUplinkWord channel word s
  | .adoptionWord word afterIdle => Sys2Proof.Machine.execAdoptionWord word afterIdle s
  | .brakeSetFalling => Sys2Proof.Machine.execBrakeSetFalling s
  | .supplyLoss => Sys2Proof.Machine.execSupplyLoss s

end Sys2Proof.Machine
end

