-- ==== Sys2Proof/Safety.lean ====
section
/-! DEFINITION. The terms the statements use: what a step leaves unchanged, how a host request is
answered, which commands may release a record or reset the part, and what counts as a safe state: the
laws that the spec states over the whole part ("the law of the part is …"). -/

namespace Sys2Proof.Machine

/-! ## Frames -/

/-- The parts of the state, one for each field. -/
inductive Part where
  | mode
  | time
  | lines
  | sense
  | csN
  | params
  | roster
  | accrual
  | links
  | downlinkSince
  | intake
  | matrix
  | engine
  | result
  | tables
  | publisher
  | port
  | choices
  | pending
  deriving DecidableEq, Repr

/-- A part reads the same in two states. -/
def State.SamePart (s t : State) : Part → Prop
  | .mode => t.mode = s.mode
  | .time => t.time = s.time
  | .lines => t.lines = s.lines
  | .sense => t.sense = s.sense
  | .csN => t.csN = s.csN
  | .params => t.params = s.params
  | .roster => t.roster = s.roster
  | .accrual => t.accrual = s.accrual
  | .links => t.links = s.links
  | .downlinkSince => t.downlinkSince = s.downlinkSince
  | .intake => t.intake = s.intake
  | .matrix => t.matrix = s.matrix
  | .engine => t.engine = s.engine
  | .result => t.result = s.result
  | .tables => t.tables = s.tables
  | .publisher => t.publisher = s.publisher
  | .port => t.port = s.port
  | .choices => t.choices = s.choices
  | .pending => t.pending = s.pending

/-- From s to t nothing changes but the parts listed. -/
def State.ChangesOnly (s t : State) (changed : List Part) : Prop := ∀ x, x ∉ changed → s.SamePart t x

/-- From s to t no record changes but that of one position. -/
def State.OtherRecords (s t : State) (p : Pos) : Prop := ∀ q, q ≠ p → t.record q = s.record q

/-- From s to t no link changes but that of one channel. -/
def State.OtherLinks (s t : State) (ch : Chan) : Prop := ∀ c, c ≠ ch → t.link c = s.link c

/-- A list l with one entry more, at its place in stamp order: before the first entry that it is older
than (R53, R75). -/
def Entry.Joins (e : Entry) (l l' : List Entry) : Prop :=
  ∃ older younger, l = older ++ younger ∧ l' = older ++ e :: younger ∧
    (∀ x ∈ older, before e.stamp e.pos x.stamp x.pos = false) ∧
    (∀ x, younger.head? = some x → before e.stamp e.pos x.stamp x.pos = true)

/-! ## Positions and channels -/

/-- A channel is assigned to a position, and to no other (R2). -/
def State.Assigned (s : State) (ch : Chan) (p : Pos) : Prop :=
  (s.record p).channel = some ch ∧ ∀ q, (s.record q).channel = some ch → q = p

/-- No position holds the channel. -/
def State.Unassigned (s : State) (ch : Chan) : Prop := ∀ p, (s.record p).channel ≠ some ch

/-- An argument byte that names a position (R20). -/
def posByte (p : Pos) : Byte := byteOf p.val

/-- An argument byte that names a channel (R20). -/
def chanByte (ch : Chan) : Byte := byteOf ch.val

/-! ## Requests -/

/-- Request i, executed in state s, has the effect u and is answered with a code, its tag and a payload:
the answer is held by the port, in preparation from now on, and nothing else differs from u (R170, R175,
R176). -/
def State.Performs (s : State) (i : Instr) (tag : Byte) (code : AnswerCode) (payload : List Byte)
    (u : State) : Prop :=
  exec i s = .next ((u.setCsN true).setPort
    { u.port with
      state := .preparing s.time
      answer := some { code := code, tag := tag, payload := payload }
      miso := [] })

/-- Request i, executed in state s, is refused: a code, no payload, and nothing changes (R20, R176). -/
def State.Refuses (s : State) (i : Instr) (tag : Byte) (code : AnswerCode) : Prop :=
  s.Performs i tag code [] s

/-! ## Runs, flags, links and entries -/

/-- The commands of a list run one after another take s to t. -/
def State.Runs (s : State) : List Instr → State → Prop
  | [], t => t = s
  | c :: cs, t => ∃ u, exec c s = .next u ∧ u.Runs cs t

/-- From s to t the flags listed are set, every other flag stands as it stood, and nothing else of the port
changes (R180). -/
def State.Raises (s t : State) (raised : List Flag) : Prop :=
  (∀ f, t.hasFlag f = (s.hasFlag f || raised.contains f)) ∧
  t.port = { s.port with flags := t.port.flags }

/-- A code NONE and a voltage in the window, V_HI of 0 disabling the upper bound (R39). -/
def State.CleanFrame (s : State) (f : UplinkFields) : Prop :=
  f.code = .none ∧ s.params.vLo ≤ f.voltage ∧ (s.params.vHi = 0 ∨ f.voltage ≤ s.params.vHi)

/-- From s to v one uplink frame of a channel is accepted (R37): its receiver, and where the channel is
assigned, the measurements (R38), the clean-frame run (R39) and, by a clean frame, the fault-reset latch
(R49). -/
def State.Accepts (s v : State) (ch : Chan) (assigned : Option Pos) (f : UplinkFields) : Prop :=
  (v.link ch).rx =
    { link := .live, score := (s.link ch).rx.score - 1, lastSeq := some f.seq,
      degraded := if (s.link ch).rx.score = 1 then false else (s.link ch).rx.degraded,
      frame := none, silence := some s.time } ∧
  (v.link ch).tx.seq = (s.link ch).tx.seq ∧ (v.link ch).tx.sent = (s.link ch).tx.sent ∧
  (assigned.isSome → s.CleanFrame f → (v.link ch).tx.faultReset = false) ∧
  (assigned = none ∨ ¬s.CleanFrame f → (v.link ch).tx.faultReset = (s.link ch).tx.faultReset) ∧
  s.OtherLinks v ch ∧
  (∀ p, assigned = some p → ∃ run,
    (s.CleanFrame f → run = min 31 ((s.record p).cleanRun.getD 0 + 1)) ∧ (¬s.CleanFrame f → run = 0) ∧
    v.record p = { s.record p with
      voltage := some f.voltage, temperature := some f.temperature, reported := some f.code,
      cleanRun := some run }) ∧
  (∀ p, assigned ≠ some p → v.record p = s.record p) ∧
  s.ChangesOnly v [.links, .roster]

/-- From s to t steps 1 to 4 of R59 take a fault against an active record: the window of a provisional
fault (R62), the record FAULTED without an offset (R5), FAULT_TAKEN, and a CLOSE entry, held while
provisional and with a hold-off for an eligible cause (R76); where the contact reads CLOSED the close
completes at once instead (R10). -/
def State.TakesFault (s t : State) (p : Pos) (cause : FaultCause) : Prop :=
  let eligible := cause = .dcOver ∨ cause = .dcUnder ∨ cause = .overtemp
  let prov := eligible ∧ s.params.tCC ≠ 0
  (¬prov → t.intake = s.intake) ∧
  (prov → ∃ code, cause.eligible = some code ∧ t.intake = { s.intake with
    provisionals := s.intake.provisionals ++ [{ pos := p, code := code, stamp := s.time }] }) ∧
  ((s.record p).contact ≠ .closed →
    (∃ prior, (prov → prior = some (s.record p).state) ∧ (¬prov → prior = (s.record p).prior) ∧
      t.record p = { s.record p with
        state := .faulted, offset := none, cause := some cause, stamp := some s.time, prior := prior }) ∧
    ∃ (e : Entry) (orders : List Entry), e.pos = p ∧ e.kind = .toClose ∧ e.stamp = s.time ∧
      e.holdOffRun = false ∧ (e.holdOff = true ↔ eligible) ∧ (e.hold = true ↔ prov) ∧
      e.Joins s.matrix.orders orders ∧ t.matrix = { s.matrix with orders := orders }) ∧
  ((s.record p).contact = .closed →
    t.record p = { s.record p with
      state := if s.params.qLim ≤ min 15 ((s.record p).tally + 1) ∨ (s.record p).probation ≠ none
        then .quarantined else .bypassed
      tally := min 15 ((s.record p).tally + 1), offset := none, cause := some cause,
      stamp := some s.time, probation := none, prior := none } ∧
    t.matrix = s.matrix) ∧
  s.OtherRecords t p ∧ s.Raises t [.faultTaken] ∧
  s.ChangesOnly t [.roster, .intake, .matrix, .port]

/-! ## Engine, pass and publisher -/

/-- The engine with its current pass, if any, ended with an outcome (R107). -/
def Engine.passEnded (e : Engine) (o : PassOutcome) : Engine :=
  { e with
    pass := if e.passCurrent then e.pass.map (fun p => { p with outcome := some o }) else e.pass
    passCurrent := false }

/-- The engine in LOCKOUT with a cause: its pass ended, every timer discarded (R92, R93, R113). -/
def Engine.lockedOut (e : Engine) (c : LockoutCause) : Engine where
  state := .lockout
  attempts := e.attempts
  sampledManride := e.sampledManride
  sampledDir := e.sampledDir
  passToCome := none
  pass := (e.passEnded .endedByLockout).pass
  passCurrent := false
  cause := some c
  grace := none
  brakeWait := none
  proving := none
  cleanRun := none

/-- From s to t the engine, in a state other than DORMANT and LOCKOUT, goes to LOCKOUT with a cause, and
nothing else of the part changes (R113). -/
def State.LocksOut (s t : State) (c : LockoutCause) : Prop :=
  t.engine = s.engine.lockedOut c ∧ t.publisher = s.publisher.stopped ∧
  s.Raises t [.stateChange, .lockedOut] ∧ s.ChangesOnly t [.engine, .publisher, .port]

/-- What holds the engine in BYPASSING: a FAULTED record without the close-failed mark, a CLOSING record,
or an open provisional fault (R105). -/
def State.Outstanding (s : State) : Prop :=
  (∃ p, ((s.record p).state = .faulted ∧ (s.record p).closeFailed = false) ∨
    (s.record p).state = .closing) ∨ s.intake.provisionals ≠ []

/-- From s to t the rebalance runs as a pass of a kind (R106, R119): a new pass with its attempt index; on
a lockout request LOCKOUT with its cause, no record changed; on a commit the records, the result record
and PUBLISHING with the set frame sent or queued (R134, R157, R158). `rebalance` is the arithmetic
of stages 1 to 7. -/
def State.Rebalances (s t : State) (kind : PassKind) (attempt : Nat) : Prop :=
  ∀ lower, kind = .cold ∨ s.engine.sampledDir = some lower →
    let opened : Pass := { kind := kind, attempt := attempt, outcome := none }
    let missed (miss : Bool) : List Flag := if miss then [.tableMiss] else []
    match rebalance s.roster s.params s.tables kind attempt lower with
    | .lockout c miss =>
      t.engine = { s.engine with pass := some opened, passCurrent := true }.lockedOut c ∧
      t.publisher = s.publisher.stopped ∧ s.Raises t (missed miss ++ [.stateChange, .lockedOut]) ∧
      s.ChangesOnly t [.engine, .publisher, .port]
    | .commit r parked =>
      t.engine = { s.engine.enter .publishing with pass := some opened, passCurrent := true } ∧
      t.result = some r ∧ t.roster = (s.commitRoster parked).roster ∧
      (∃ frame, frame = setFrame (s.publisher.adopted + 1) r (t.pairs 0) (t.pairs 1) (t.pairs 2) ∧
        t.publisher = { s.publisher.stopped with
          published := s.publisher.adopted + 1
          sending := if s.publisher.sending = none then some { frame := frame, since := s.time }
            else s.publisher.sending
          queued := if s.publisher.sending = none then s.publisher.queued else some frame
          frameSent := some false
          adoptDeadline := some s.time }) ∧
      s.Raises t (missed r.miss ++ [.stateChange]) ∧
      s.ChangesOnly t [.engine, .result, .roster, .publisher, .port]

/-- From s to t the BYPASSING exit is tested (R105): the rebalance runs at once in BYPASSING with nothing
outstanding, and else nothing changes. -/
def State.ExitTests (s t : State) : Prop :=
  (s.engine.state ≠ .bypassing ∨ s.Outstanding → t = s) ∧
  (s.engine.state = .bypassing → ¬s.Outstanding →
    (s.engine.passToCome = some .cold → s.Rebalances t .cold 0) ∧
    (s.engine.passToCome = some .restart → s.Rebalances t .restart s.engine.attempts))

/-- The attempt limit in force at a level of MANRIDE (R102). -/
def Params.attemptLimit (ps : Params) (manride : Bool) : Nat :=
  let full := if ps.aLim = 0 then 15 else ps.aLim
  if manride then min full ps.aMan else full

/-- From s to t the pass ends with an outcome and attempt accounting is made (R101, R102, R103): MANRIDE and
DIR sampled; at the limit LOCKOUT with cause ATTEMPTS; below it the count rises, and the engine waits in
HALTED for the brake, or is in BYPASSING with a RESTART pass to come where BRAKE_SET is high. (With
BRAKE_SET high and nothing outstanding the rebalance follows at once, R105.) -/
def State.Accounts (s t : State) (o : PassOutcome) : Prop :=
  let e := { (s.engine.passEnded o).enter .halted with
    sampledManride := some s.lines.manride.level, sampledDir := some s.lines.dir.level }
  let below := s.engine.attempts < s.params.attemptLimit s.lines.manride.level
  let brake := s.lines.brakeSet.level
  (¬below → t.engine = e.lockedOut .attempts ∧ s.Raises t [.stateChange, .lockedOut]) ∧
  (below → brake = false →
    t.engine = { e with attempts := s.engine.attempts + 1, brakeWait := some s.time } ∧
    s.Raises t [.stateChange]) ∧
  (below → brake = true → s.Outstanding →
    t.engine = { e.enter .bypassing with
      attempts := s.engine.attempts + 1, passToCome := some .restart } ∧
    s.Raises t [.stateChange]) ∧
  (¬below ∨ brake = false ∨ s.Outstanding →
    t.publisher = s.publisher.stopped ∧ s.ChangesOnly t [.engine, .publisher, .port]) ∧
  (below → brake = true → ¬s.Outstanding →
    ∃ u, u = s.setEngine { e with attempts := s.engine.attempts + 1 } ∧
      u.Rebalances t .restart (s.engine.attempts + 1))

/-- From s to t the fault notice acts on the engine (R100): in PUBLISHING, VERIFYING, PROVING and RUNNING the
pass ends and accounting is made, in BYPASSING the exit is tested, elsewhere nothing changes. -/
def State.Notified (s t : State) : Prop :=
  if s.engine.state = .publishing ∨ s.engine.state = .verifying ∨ s.engine.state = .proving ∨
    s.engine.state = .running then s.Accounts t .endedByFault else s.ExitTests t

/-- The pass condition (R162). -/
def State.PassHolds (s : State) : Prop :=
  s.publisher.minElapsed = true ∧ ∃ ps, s.publisher.verified = some ps ∧
    ∀ p ∈ ps, max 1 s.params.kClean ≤ (s.record p).cleanRun.getD 0

/-- From s to t verification passes (R163): a COLD pass enters RUNNING (R109), a RESTART pass PROVING with its
deadline started (R110). -/
def State.Passes (s t : State) : Prop :=
  ∀ pass, s.engine.pass = some pass →
    (pass.kind = .cold → t.engine = { s.engine.enter .running with
      pass := some { pass with outcome := some .completeCold } }) ∧
    (pass.kind = .restart → t.engine = { s.engine.enter .proving with proving := some s.time }) ∧
    t.publisher = s.publisher.stopped ∧ s.Raises t [.stateChange] ∧
    s.ChangesOnly t [.engine, .publisher, .port]

/-- From s to t the pass condition is tested (R162). -/
def State.PassTests (s t : State) : Prop :=
  (s.engine.state = .verifying → s.PassHolds → s.Passes t) ∧
  (s.engine.state ≠ .verifying ∨ ¬s.PassHolds → t = s)

/-- A read of a position's sense line settles a change: the third agreeing read of a value other than the
settled one (R71). -/
def State.Settles (s : State) (p : Pos) (closed : Bool) : Prop :=
  s.matrix.debounce[p].candidate = some closed ∧ s.matrix.debounce[p].agree = 2 ∧
  (s.record p).contact ≠ (if closed then .closed else .opened)

/-- The debounce state after one read (R71). -/
def Debounce.afterRead (d : Debounce) (closed : Bool) : Debounce :=
  if d.candidate = some closed then { d with agree := if 3 ≤ d.agree then d.agree else d.agree + 1 }
  else { candidate := some closed, agree := 1 }

/-- From s to t the OPEN entries that wait are withdrawn (R78), and other flags raised: CLOSE entries stay, every
OPENING record of a withdrawn entry returns to BYPASSED, and where its contact reads OPEN it is FAULTED with
CONTACT_OPEN and listed for closing (R14), and FAULT_TAKEN is set; no other flag, entry, record or part of the
matrix and the port changes. -/
def State.Withdraws (s t : State) (others : List Flag) : Prop :=
  let waiting (p : Pos) : Prop :=
    (s.record p).state = .opening ∧ ∃ e ∈ s.matrix.orders, e.kind = .toOpen ∧ e.pos = p
  let surprised (p : Pos) : Prop := waiting p ∧ (s.record p).contact = .opened
  let listed (p : Pos) : Entry :=
    { pos := p, kind := .toClose, stamp := s.time, holdOff := false, holdOffRun := false, hold := false }
  (∀ p, ¬waiting p → t.record p = s.record p) ∧
  (∀ p, waiting p → (s.record p).contact ≠ .opened →
    t.record p = { s.record p with state := .bypassed }) ∧
  (∀ p, surprised p → t.record p = { s.record p with
    state := .faulted, cause := some .contactOpen, stamp := some s.time }) ∧
  (∀ e, e ∈ t.matrix.orders ↔ (e ∈ s.matrix.orders ∧ e.kind = .toClose) ∨
    ∃ p, surprised p ∧ e = listed p) ∧
  t.matrix = { s.matrix with orders := t.matrix.orders } ∧
  ((∃ p, surprised p) → s.Raises t (.faultTaken :: others)) ∧
  ((∀ p, ¬surprised p) → s.Raises t others)

/-- From s to t the engine leaves DORMANT for LOCKOUT with a cause (R78, R93, R113). -/
def State.LocksOutOfDormant (s t : State) (c : LockoutCause) : Prop :=
  t.engine = s.engine.lockedOut c ∧ t.publisher = s.publisher.stopped ∧
  s.Withdraws t [.stateChange, .lockedOut] ∧
  s.ChangesOnly t [.roster, .matrix, .engine, .publisher, .port]

/-! ## Contact reads -/

/-- From s to t one read of a position's sense line is taken outside CONFIG (R71, R72). The debounce state takes
the read. A change that it settles confirms the pulse the unit is SETTLING on within tBC when it is that pulse's
target: a CLOSING record completes its close, followed by the exit test of BYPASSING (R84, R105), and an OPENING
one becomes PROBATION with the fault-reset latch of its channel set (R86, R49). Where it confirms no pulse, a
CLOSED contact of an active record is taken as CONTACT_CLOSED with its close completed and the fault notice sent,
and an OPEN one of a BYPASSED or QUARANTINED record as CONTACT_OPEN, listed only if BYPASSED (R58, R60, R6); any
other is no surprise. A pulse confirmed is described for the record it stands for: CLOSING for CLOSE, OPENING
for OPEN. -/
def State.Reads (s t : State) (p : Pos) (closed : Bool) : Prop :=
  let r : Record := { s.record p with contact := if closed then .closed else .opened }
  let completed : RecordState :=
    if s.params.qLim ≤ min 15 (r.tally + 1) ∨ r.probation ≠ none then .quarantined else .bypassed
  let read : Vector Debounce 30 := s.matrix.debounce.set p (s.matrix.debounce[p].afterRead closed)
  let confirms := ∃ kind ended recovered, s.matrix.unit = .settling p kind ended recovered ∧
    (s.time - ended).toNat ≤ 1000 * s.params.tBC ∧ (kind = .toClose ↔ closed = true)
  let notice := s.engine.state = .publishing ∨ s.engine.state = .verifying ∨
    s.engine.state = .proving ∨ s.engine.state = .running
  (¬s.Settles p closed → t = s.setMatrix { s.matrix with debounce := read }) ∧
  (s.Settles p closed → ∃ u : State, s.OtherRecords u p ∧
    u.matrix = { s.matrix with
      debounce := read, orders := u.matrix.orders, unit := u.matrix.unit } ∧
    (∀ ended recovered, s.matrix.unit = .settling p .toClose ended recovered →
      (s.time - ended).toNat ≤ 1000 * s.params.tBC → r.state = .closing → closed = true →
      u.record p = { r with
        state := completed, tally := min 15 (r.tally + 1), probation := none, prior := none } ∧
      u.matrix.unit = (if recovered = true then .idle else .recovering ended) ∧
      u.matrix.orders = s.matrix.orders ∧ s.Raises u [.switchDone] ∧
      s.ChangesOnly u [.matrix, .roster, .port] ∧ u.ExitTests t) ∧
    (∀ ended recovered, s.matrix.unit = .settling p .toOpen ended recovered →
      (s.time - ended).toNat ≤ 1000 * s.params.tBC → r.state = .opening → closed = false →
      u.record p = { r with state := .probation, probation := some s.params.tPROB } ∧
      u.matrix.unit = (if recovered = true then .idle else .recovering ended) ∧
      u.matrix.orders = s.matrix.orders ∧ s.Raises u [.switchDone] ∧
      (∀ ch, r.channel = some ch →
        u.link ch = { s.link ch with tx := { (s.link ch).tx with faultReset := true } }) ∧
      (∀ ch, r.channel ≠ some ch → u.link ch = s.link ch) ∧
      s.ChangesOnly u [.matrix, .roster, .links, .port] ∧ t = u) ∧
    (¬confirms → u.matrix.unit = s.matrix.unit ∧
      (r.state.active = true → closed = true →
        u.record p = { r with
          state := completed, tally := min 15 (r.tally + 1), offset := none,
          cause := some .contactClosed, stamp := some s.time, probation := none, prior := none } ∧
        u.matrix.orders = s.matrix.orders ∧ s.Raises u [.faultTaken] ∧
        s.ChangesOnly u [.matrix, .roster, .port] ∧ u.Notified t) ∧
      (r.state = .bypassed → closed = false →
        u.record p = { r with
          state := .faulted, cause := some .contactOpen, stamp := some s.time } ∧
        Entry.Joins
          { pos := p, kind := .toClose, stamp := s.time, holdOff := false, holdOffRun := false,
            hold := false }
          s.matrix.orders u.matrix.orders ∧
        s.Raises u [.faultTaken] ∧ s.ChangesOnly u [.matrix, .roster, .port] ∧
        (notice → u.Notified t) ∧ (¬notice → t = u)) ∧
      (r.state = .quarantined → closed = false →
        u.record p = { r with cause := some .contactOpen, stamp := some s.time } ∧
        u.matrix.orders = s.matrix.orders ∧
        s.Raises u [.faultTaken] ∧ s.ChangesOnly u [.matrix, .roster, .port] ∧
        (notice → u.Notified t) ∧ (¬notice → t = u)) ∧
      ((closed = true → r.state.active = false) →
        (closed = false → r.state ≠ .bypassed ∧ r.state ≠ .quarantined) →
        u.record p = r ∧ u.matrix.orders = s.matrix.orders ∧
        s.ChangesOnly u [.matrix, .roster] ∧ t = u)))

/-! ## What arises of itself -/

/-- Five samples in a row agree on a level other than the qualified one (R204). -/
def Line.Edges (l : Line) (level : Bool) : Prop :=
  5 ≤ l.count ∧ l.sample = level ∧ l.qualified = some (!level)

/-- A time of n microseconds has run from a stamp that is held (R53). -/
def State.HasRun (s : State) (since : Option Stamp) (n : Nat) : Prop :=
  ∃ t, since = some t ∧ n ≤ (s.time - t).toNat

/-- An event of the part's own arises in a state: a timer has run, a grant can be made, a count is complete, or
five samples agree on a new level. The commands from outside never arise. -/
def State.Arises (s : State) : Instr → Prop
  | .answerReady => ∃ since, (s.port.state = .preparing since ∨ s.port.state = .early since false) ∧
      4 ≤ (s.time - since).toNat
  | .silenceDetected ch => (s.link ch).rx.link = .live ∧ s.HasRun (s.link ch).rx.silence s.params.tSIL
  | .downlinkBoundary => 50 ≤ (s.time - s.downlinkSince).toNat
  | .windowExpiry p => ∃ x ∈ s.intake.provisionals, x.pos = p ∧
      s.params.tCC ≤ (s.time - x.stamp).toNat ∧
      ∀ y ∈ s.intake.provisionals, y.code = x.code → s.params.tCC ≤ (s.time - y.stamp).toNat →
        before y.stamp y.pos x.stamp x.pos = false
  | .groupClose code => ∃ g l l', s.intake.groups = l ++ g :: l' ∧ g.code = code ∧
      (∀ x ∈ l, x.code ≠ code) ∧ s.params.tCC ≤ (s.time - g.latest).toNat
  | .scanDwellEnd a b c => s.sense = { a := a, b := b, c := c } ∧ s.HasRun s.matrix.dwell 1000
  | .holdOffExpiry p => ∃ e ∈ s.matrix.orders, e.pos = p ∧ e.kind = .toClose ∧ e.holdOff = true ∧
      e.holdOffRun = false ∧ 1000 * s.params.tHO ≤ (s.time - e.stamp).toNat
  | .entryGrant => s.matrix.unit = .idle ∧ ∃ e ∈ s.matrix.orders,
      (e.kind = .toClose ∧ e.hold = false ∧ (e.holdOff = false ∨ e.holdOffRun = true)) ∨
        (e.kind = .toOpen ∧ s.engine.state = .dormant)
  | .pulseEnd => ∃ p kind since, s.matrix.unit = .firing p kind since ∧
      1000 * s.params.tFW ≤ (s.time - since).toNat
  | .closeTimeout => ∃ p ended recovered, s.matrix.unit = .settling p .toClose ended recovered ∧
      1000 * s.params.tBC ≤ (s.time - ended).toNat
  | .openTimeout => ∃ p ended recovered, s.matrix.unit = .settling p .toOpen ended recovered ∧
      1000 * s.params.tBC ≤ (s.time - ended).toNat
  | .recoveryEnd => ∃ ended, (s.matrix.unit = .recovering ended ∨
        ∃ p kind, s.matrix.unit = .settling p kind ended false) ∧
      1000 * s.params.tREC ≤ (s.time - ended).toNat
  | .brakeWaitExpiry => s.engine.state = .halted ∧ s.lines.brakeSet.level = false ∧
      s.HasRun s.engine.brakeWait (1000 * s.params.tBRK)
  | .graceExpiry => s.engine.state = .charging ∧ s.HasRun s.engine.grace (100000 * s.params.tWAKE)
  | .setFrameSent => ∃ f, s.publisher.sending = some f ∧ f.frame.length / 2 ≤ (s.time - f.since).toNat
  | .adoptionDeadlineExpiry => s.engine.state = .publishing ∧
      s.HasRun s.publisher.adoptDeadline (1000 * s.params.tADOPT)
  | .minimumTimerExpiry => s.engine.state = .verifying ∧ s.publisher.minElapsed = false ∧
      s.HasRun s.publisher.minTimer (1000 * s.params.tVMIN)
  | .verificationDeadlineExpiry => s.engine.state = .verifying ∧
      s.HasRun s.publisher.verDeadline (1000 * s.params.tVER)
  | .provingDeadlineExpiry => s.engine.state = .proving ∧
      s.HasRun s.engine.proving (1000000 * s.params.tPRV)
  | .cleanRunSecond => ∃ c, s.engine.cleanRun = some c ∧ 1000000 ≤ c.accrual
  | .cleanRunEnd => ∃ c, s.engine.cleanRun = some c ∧ c.remaining = 0
  | .runningTimeSecond => 1000000 ≤ s.accrual
  | .probationComplete p => (s.record p).state = .probation ∧ (s.record p).probation = some 0
  | .energizedRising => s.lines.energized.Edges true
  | .energizedFalling => s.lines.energized.Edges false
  | .estopNFalling => s.lines.estopN.Edges false
  | .brakeSetRising => s.lines.brakeSet.Edges true
  | .brakeSetFalling => s.lines.brakeSet.Edges false
  | .provenRising => s.lines.proven.Edges true
  | .nop _ | .lookup _ _ | .findChannel _ _ | .findSerial _ _ | .list _ _ | .linkStatus _ _
  | .enrol _ _ _ _ _ | .retire _ _ | .readmit _ _ | .clearTally _ _ _ | .setParam _ _ _ | .getParam _ _
  | .start _ | .loadShift _ _ _ _ _ _ _ _ | .dropShift _ _ _ _ | .readShift _ _ _ _ _
  | .loadScale _ _ _ _ _ | .readScale _ _ _ | .summary _ | .clearLockout _ | .ack _ _ | .setMask _ _
  | .readCause _ | .reset | .transactionBegin | .transactionEnd _ | .powerOnReset | .pinReset | .resetEnd
  | .uplinkFrame _ _ _ _ _ _ | .badFrame _ _ | .adoptionFrame _ | .uplinkWord _ _ | .adoptionWord _ _
  | .supplyLoss => False

/-- The timer and condition rows whose command, given before the event arises, changes nothing (assumption 5).
An answer may be ready before tANS (assumption 18), an edge is one whatever the samples (assumption 10), and
SCAN_DWELL_END carries its own levels. -/
def Instr.needsToArise : Instr → Bool
  | .silenceDetected _ | .downlinkBoundary | .windowExpiry _ | .groupClose _ | .holdOffExpiry _
  | .entryGrant | .pulseEnd | .closeTimeout | .openTimeout | .recoveryEnd | .brakeWaitExpiry | .graceExpiry
  | .setFrameSent | .adoptionDeadlineExpiry | .minimumTimerExpiry | .verificationDeadlineExpiry
  | .provingDeadlineExpiry | .cleanRunSecond | .cleanRunEnd | .runningTimeSecond
  | .probationComplete _ => true
  | _ => false

/-! ## What a command may do -/

/-- The request that a TRANSACTION_END carries, when its frame is one (R173, R174); any other command is
itself. -/
def Instr.carried (c : Instr) : Instr :=
  match c with
  | .transactionEnd mosi =>
    match judgeFrame (mosiBytes mosi) with
    | .request i => i
    | .refused _ _ => .transactionEnd mosi
  | c => c

/-- The two requests by which a QUARANTINED record is released: RETIRE of its position, and a CLEAR_TALLY
whose scope covers it (R19). -/
def Instr.namesRelease (i : Instr) (p : Pos) : Bool :=
  match i with
  | .retire _ position => posOfByte position == some p
  | .clearTally _ kind index => (scopeOf kind index).any fun scope => scope.contains p
  | _ => false

/-- The commands that take every block to its after-reset values (R187), and the loss of the supply
(R190). -/
def Instr.namesReset (i : Instr) : Bool :=
  match i with
  | .reset | .powerOnReset | .pinReset | .supplyLoss => true
  | _ => false

/-- A command that releases a QUARANTINED record of a position, given directly or in a frame. -/
def Instr.releases (c : Instr) (p : Pos) : Bool := Instr.namesRelease (Instr.carried c) p

/-- A command that resets the part, given directly or in a frame. -/
def Instr.resets (c : Instr) : Bool := Instr.namesReset (Instr.carried c)

/-- The code, tag, length and payload bytes of the frame that carries a request (R173, R174, R201); RESET has
a tag in its frame though nothing answers it, so a tag is given. Any other command has no frame. -/
def Instr.requestBytes (resetTag : Byte) : Instr → Option (List Byte)
  | .nop tag => some [0x01, tag, 0]
  | .lookup tag p => some [0x02, tag, 1, p]
  | .findChannel tag c => some [0x03, tag, 1, c]
  | .findSerial tag n => some ([0x04, tag, 4] ++ bytes4 n.toNat)
  | .list tag st => some [0x05, tag, 1, st]
  | .linkStatus tag c => some [0x06, tag, 1, c]
  | .enrol tag p c n t => some ([0x07, tag, 7, p, c] ++ bytes4 n.toNat ++ [t])
  | .retire tag p => some [0x08, tag, 1, p]
  | .readmit tag p => some [0x09, tag, 1, p]
  | .clearTally tag k i => some [0x0A, tag, 2, k, i]
  | .setParam tag n v => some ([0x0B, tag, 5, n] ++ bytes4 v.toNat)
  | .getParam tag n => some [0x0C, tag, 1, n]
  | .start tag => some [0x0D, tag, 0]
  | .loadShift tag h i j a b c f =>
    some ([0x0E, tag, 11, h, i, j] ++ bytes2 a.toNat ++ bytes2 b.toNat ++ bytes2 c.toNat ++ bytes2 f.toNat)
  | .dropShift tag h i j => some [0x0F, tag, 3, h, i, j]
  | .readShift tag k a b c => some [0x10, tag, 4, k, a, b, c]
  | .loadScale tag a d r p => some [0x11, tag, 4, a, d, r, p]
  | .readScale tag a d => some [0x12, tag, 2, a, d]
  | .summary tag => some [0x13, tag, 0]
  | .clearLockout tag => some [0x14, tag, 0]
  | .ack tag f => some [0x15, tag, 1, f]
  | .setMask tag m => some [0x16, tag, 1, m]
  | .readCause tag => some [0x17, tag, 0]
  | .reset => some [0x18, resetTag, 0]
  | _ => none

/-! ## The laws -/

/-- Tallies, runs and scores stay within their counts (R3, R39, R42). -/
structure State.Counted (s : State) : Prop where
  tally : ∀ p, (s.record p).tally ≤ 15
  run : ∀ p n, (s.record p).cleanRun = some n → n ≤ 31
  score : ∀ ch, (s.link ch).rx.score ≤ 63

/-- A carrier offset lies in 0 to 32767 and is held only in IN_SERVICE or PROBATION (R133); none is held in
CONFIG, where no rebalance has run since the reset (R94). -/
structure State.OffsetsKept (s : State) : Prop where
  range : ∀ p n, (s.record p).offset = some n → n ≤ 32767
  holder : ∀ p, (s.record p).offset.isSome →
    (s.record p).state = .inService ∨ (s.record p).state = .probation
  config : s.engine.state = .config → ∀ p, (s.record p).offset = none

/-- No channel and no serial tag stands at two positions (R2). -/
structure State.Indexed (s : State) : Prop where
  channel : ∀ p q ch, (s.record p).channel = some ch → (s.record q).channel = some ch → p = q
  serial : ∀ p q tag, (s.record p).serial = some tag → (s.record q).serial = some tag → p = q

/-- Every parameter lies in its range (R192), and the three pairs keep their order (R194). -/
structure Params.Kept (ps : Params) : Prop where
  range : ∀ n lo hi, paramRange n = some (lo, hi) → lo ≤ ps.get n ∧ ps.get n ≤ hi
  window : ps.tCC ≤ 1000 * ps.tHO
  verify : ps.tVMIN ≤ ps.tVER
  voltage : ps.vHi = 0 ∨ ps.vLo ≤ ps.vHi

/-- The parameters are kept, and the attempt count never exceeds 15 (R102). -/
structure State.Limited (s : State) : Prop where
  params : s.params.Kept
  attempts : s.engine.attempts ≤ 15

/-- The adopted generation equals the published generation or the one before it, modulo 65536
(R157). -/
def Publisher.Numbered (p : Publisher) : Prop :=
  p.adopted = p.published ∨ p.adopted + 1 = p.published

/-- The position and kind of the pulse that is in flight or being confirmed (R80). -/
def FiringUnit.target : FiringUnit → Option (Pos × SwitchKind)
  | .firing p kind _ => some (p, kind)
  | .settling p kind _ _ => some (p, kind)
  | .idle => none
  | .recovering _ => none

/-- The switch order list and the firing unit: no position twice and at most 30 entries, each entry's record in
the matching state (R75); the record under a pulse CLOSING or OPENING, without an entry (R81, R83); a prior
state and a close-failed mark in FAULTED alone, never both (R8, R9, R11); no dwell while a pulse is in flight
(R73); nothing listed and no pulse in CONFIG, where no fault is taken (R57, R58, R94), nor in a part that does
not run (R188). -/
structure State.Switched (s : State) : Prop where
  alone : s.matrix.orders.Pairwise fun a b => a.pos ≠ b.pos
  capacity : s.matrix.orders.length ≤ 30
  closeEntry : ∀ e ∈ s.matrix.orders, e.kind = .toClose →
    (s.record e.pos).state = .faulted ∧ (s.record e.pos).closeFailed = false
  openEntry : ∀ e ∈ s.matrix.orders, e.kind = .toOpen → (s.record e.pos).state = .opening
  closePulse : ∀ p, s.matrix.unit.target = some (p, .toClose) → (s.record p).state = .closing
  openPulse : ∀ p, s.matrix.unit.target = some (p, .toOpen) → (s.record p).state = .opening
  pulseAlone : ∀ p kind, s.matrix.unit.target = some (p, kind) → ∀ e ∈ s.matrix.orders, e.pos ≠ p
  mark : ∀ p, (s.record p).closeFailed = true → (s.record p).state = .faulted ∧ (s.record p).prior = none
  prior : ∀ p, (s.record p).prior.isSome → (s.record p).state = .faulted
  scan : ∀ p kind since, s.matrix.unit = .firing p kind since → s.matrix.dwell = none
  config : s.engine.state = .config → s.matrix.orders = [] ∧ s.matrix.unit = .idle
  stopped : s.mode ≠ .running → s.engine.state = .config

/-- While a reset is held, or without supply, every block stands at its after-reset values; what is outside the
blocks does not: the pins, the model's counter of choices, the waiting commands (R188). -/
def State.StandsWhileHeld (s : State) : Prop :=
  s.mode ≠ .running →
    State.reset.ChangesOnly s [.mode, .lines, .sense, .csN, .matrix, .port, .choices, .pending] ∧
    s.matrix = { Matrix.initial with dwell := none } ∧ s.port = Port.initial s.port.resetRecord

/-- An entry that the shift table may hold (R139 to R141). -/
structure ShiftEntry.Sound (e : ShiftEntry) : Prop where
  key : e.key.valid = true
  angles : anglesWellFormed e.hi e.ij e.jh = true
  ratio : e.fsh ≤ 10000

/-- The tables: at most 64 sound entries in strictly ascending key order, so no key twice (R139), and
every scale entry within its stored range (R145). -/
structure Tables.Sound (t : Tables) : Prop where
  capacity : t.shift.length ≤ 64
  entries : ∀ e ∈ t.shift, e.Sound
  ascending : t.shift.Pairwise fun a b => a.key.below b.key = true
  scale : ∀ i : Fin 16, 1 ≤ t.scale[i].ramp ∧ t.scale[i].ramp ≤ 64 ∧
    20 ≤ t.scale[i].proving ∧ t.scale[i].proving ≤ 150

end Sys2Proof.Machine
end

