-- ==== Sys2Proof/Certificates/Slice0/Obligations.lean ====
section
/-! DEFINITION. The statements for the provers, family by family: what each command does, from the
numbered rules of the spec, and what the part keeps over every step. -/

open Sys2Proof Sys2Proof.Machine

/-! ## The queue and the idle part -/

/-- One step takes the command at the front of the queue and is the command's effect on the rest. That a command
runs by standing in a queue is the model's choice (assumption 24). -/
def Obligations.StepRunsFrontCommand : Prop :=
  ∀ (c : Instr) (rest : List Instr) (s : State),
    s.pending = c :: rest → step s = exec c (s.setPending rest)

/-- With nothing waiting, an event of the part's own that is due is queued, and with none due one microsecond
passes: the time base goes on by 1, the accruals grow while the engine is RUNNING with BRAKE_SET low, and at
even values each input is sampled: five agreeing samples qualify the first level after a reset, and any level
of MANRIDE and DIR, of ESTOP_N rising and PROVEN falling, which are no events (R16, R52, R90, R112, R204); an
ACK's answer is fixed with the flags it named that stand set again (R181). Due is exactly what arises: every timer
that has run by its own rule, a grant that can be made, a second or a count that is complete, and an edge of an
input exactly where five samples agree on a level other than the qualified one (State.Arises). A timer's command
given before it arises changes nothing. A held part waits: a request or power-on reset queues its end, and a pin
reset, like a part without supply, stays as it is. The model's choices: that a step is a microsecond and samples
fall at even values (assumption 1), the order of events that meet (assumption 3), that a command before its time
changes nothing (assumption 5), the ends of held resets (assumptions 6, 11 and 28), the moment up to which a flag
joins an ACK's answer (assumption 27), and that a change that is no event passes before the other events of its
microsecond (assumption 29). -/
def Obligations.IdlePartCountsAndSamples : Prop :=
  (∀ s : State, s.pending = [] →
    (s.mode = .held .request ∨ s.mode = .held .powerOn → step s = .next (s.setPending [.resetEnd])) ∧
    (s.mode = .held .pin ∨ s.mode = .off → step s = .next s)) ∧
  (∀ s : State, s.mode = .running → s.pending = [] →
    (s.due ≠ [] → ∃ c ∈ s.due, ∃ t, step s = .next t ∧ t.pending = [c] ∧
      s.ChangesOnly t [.pending, .choices]) ∧
    (s.due = [] → ∃ t, step s = .next t ∧
      let passed := if s.engine.state = .running ∧ s.lines.brakeSet.level = false then 1 else 0
      t.time = s.time + 1 ∧ t.accrual = s.accrual + passed ∧
      t.engine = { s.engine with
        cleanRun := s.engine.cleanRun.map fun x => { x with accrual := x.accrual + passed } } ∧
      t.port = { s.port with answer := s.port.answer.map fun a => { a with
        payload := a.payload.map (· ||| (s.port.flags &&& a.acked)), acked := 0x00 } } ∧
      s.ChangesOnly t [.time, .lines, .accrual, .engine, .port] ∧
      (t.time.toNat % 2 = 1 → t.lines = s.lines) ∧
      (t.time.toNat % 2 = 0 →
        let samples (old new : Line) (always : Bool) : Prop :=
          new.pin = old.pin ∧ new.sample = old.pin ∧
          new.count = (if 0 < old.count ∧ old.sample = old.pin then min 5 (old.count + 1) else 1) ∧
          new.qualified = (if new.count = 5 ∧ (always = true ∨ old.qualified = none) then some old.pin
            else old.qualified)
        samples s.lines.energized t.lines.energized false ∧
        samples s.lines.brakeSet t.lines.brakeSet false ∧
        samples s.lines.manride t.lines.manride true ∧ samples s.lines.dir t.lines.dir true ∧
        samples s.lines.estopN t.lines.estopN s.lines.estopN.pin ∧
        samples s.lines.proven t.lines.proven (!s.lines.proven.pin)))) ∧
  (∀ (c : Instr) (s : State), c ∈ s.due ↔ s.Arises c) ∧
  (∀ (c : Instr) (s : State), Instr.needsToArise c = true → ¬s.Arises c → exec c s = .next s) ∧
  ∀ (a b c : Bool) (s : State), ¬s.HasRun s.matrix.dwell 1000 → exec (.scanDwellEnd a b c) s = .next s

/-! ## Host requests that read -/

/-- NOP is answered DONE with no payload; GET_PARAM answers the value stored, and is refused a number above 25;
READ_CAUSE answers the reset-cause record, which stays as it is; none of them changes anything (R179, R191,
R195). -/
def Obligations.NopGetParamAndReadCauseAnswer : Prop :=
  ∀ (tag : Byte) (s : State), s.mode = .running →
    s.Performs (.nop tag) tag .done [] s ∧
    (∀ n : Byte, n.toNat ≤ 25 →
      s.Performs (.getParam tag n) tag .done (bytes4 (s.params.get n.toNat)) s) ∧
    (∀ n : Byte, 25 < n.toNat → s.Refuses (.getParam tag n) tag .badArgument) ∧
    s.Performs (.readCause tag) tag .done
      ([byteOf s.port.resetRecord.cause.code] ++ cond1 (s.port.resetRecord.engine.map (·.code))
        ++ [if s.port.resetRecord.pulseCut then 0x01 else 0x00]) s

/-- LOOKUP answers every field of the record in R1's order, the conditional fields as conditional items,
and refuses a position above 29 (R1, R21, R201). -/
def Obligations.LookupReturnsWholeRecord : Prop :=
  ∀ (tag : Byte) (s : State), s.mode = .running →
    (∀ (p : Pos) (r : Record), s.record p = r →
      s.Performs (.lookup tag (posByte p)) tag .done
        ([posByte p, byteOf r.state.code] ++ cond1 (r.channel.map (·.val))
          ++ cond4 (r.serial.map (·.toNat)) ++ [byteOf r.tally] ++ cond1 (r.cause.map (·.code))
          ++ cond4 (r.stamp.map (·.toNat))
          ++ [if r.closeFailed then 0x01 else 0x00, byteOf r.contact.code] ++ cond2 r.voltage
          ++ cond1 (r.temperature.map fun t => (t + 40).toNat) ++ cond1 (r.reported.map (·.code))
          ++ cond1 r.cleanRun ++ cond2 r.offset ++ cond2 r.probation ++ cond1 (r.prior.map (·.code))) s) ∧
    (∀ b : Byte, 30 ≤ b.toNat → s.Refuses (.lookup tag b) tag .badArgument)

/-- FIND_CHANNEL answers the position that holds the channel, NOT_FOUND where none does, and refuses a channel
above 31; FIND_SERIAL answers the position whose record holds the tag, NOT_FOUND where none does, and refuses
the tag 0 (R22, R23). -/
def Obligations.FindRequestsReadTheIndexes : Prop :=
  ∀ (tag : Byte) (s : State), s.mode = .running →
    (∀ (ch : Chan) (p : Pos), s.Assigned ch p →
      s.Performs (.findChannel tag (chanByte ch)) tag .done [posByte p] s) ∧
    (∀ ch : Chan, s.Unassigned ch → s.Refuses (.findChannel tag (chanByte ch)) tag .notFound) ∧
    (∀ c : Byte, 32 ≤ c.toNat → s.Refuses (.findChannel tag c) tag .badArgument) ∧
    (∀ (serial : BitVec 32) (p : Pos), serial ≠ 0 → (s.record p).serial = some serial →
      (∀ q, (s.record q).serial = some serial → q = p) →
      s.Performs (.findSerial tag serial) tag .done [posByte p] s) ∧
    (∀ serial : BitVec 32, serial ≠ 0 → (∀ p, (s.record p).serial ≠ some serial) →
      s.Refuses (.findSerial tag serial) tag .notFound) ∧
    s.Refuses (.findSerial tag 0) tag .badArgument

/-- LIST answers the count and the positions in a state in ascending position order without repetition,
refuses a code above 8, and the nine counts sum to 30 (R24). -/
def Obligations.ListReturnsPositionsInState : Prop :=
  ∀ (tag : Byte) (s : State), s.mode = .running →
    (∀ st : RecordState, ∃ l : List Pos,
      l.Pairwise (· < ·) ∧ (∀ p, p ∈ l ↔ (s.record p).state = st) ∧
      s.Performs (.list tag (byteOf st.code)) tag .done (byteOf l.length :: l.map posByte) s) ∧
    (∀ c : Byte, 8 < c.toNat → s.Refuses (.list tag c) tag .badArgument) ∧
    (([.empty, .inService, .parked, .probation, .faulted, .closing, .bypassed, .opening,
        .quarantined] : List RecordState).map fun st =>
          (allPositions.filter fun p => (s.record p).state == st).length).sum = 30

/-- LINK_STATUS answers the receiver, the transmitter and the assigned position of a channel, and refuses
a channel above 31 (R50). One byte each for the error score and the sequence is the model's reading of the
item widths (assumption 15). -/
def Obligations.LinkStatusReturnsTheLink : Prop :=
  ∀ (tag : Byte) (s : State), s.mode = .running →
    (∀ (ch : Chan) (l : Link) (assigned : Option Pos), s.link ch = l →
      (∀ p, assigned = some p → s.Assigned ch p) → (assigned = none → s.Unassigned ch) →
      s.Performs (.linkStatus tag (chanByte ch)) tag .done
        ([byteOf l.rx.link.code, byteOf l.rx.score] ++ cond1 (l.rx.lastSeq.map (·.toNat))
          ++ [if l.rx.degraded then 0x01 else 0x00, if l.tx.faultReset then 0x01 else 0x00]
          ++ cond1 (assigned.map (·.val))) s) ∧
    (∀ c : Byte, 32 ≤ c.toNat → s.Refuses (.linkStatus tag c) tag .badArgument)

/-- SUMMARY answers the engine, the last pass, the result record and the generations in the order of
R117's table, with the attempt limit in force found from the MANRIDE level at execution (R102, R117). That the
result record is one conditional item of 22 value bytes, and the key in it one of three, is the model's reading
of the item widths (DEDUCED, assumption 15). -/
def Obligations.SummaryReportsEngineAndPass : Prop :=
  ∀ (tag : Byte) (s : State) (e : Engine), s.mode = .running → s.engine = e →
    let full := if s.params.aLim = 0 then 15 else s.params.aLim
    s.Performs (.summary tag) tag .done
      ([byteOf e.state.code, byteOf e.attempts,
          byteOf (if s.lines.manride.level then min full s.params.aMan else full)]
        ++ cond1 (e.sampledManride.map fun b => if b then 1 else 0)
        ++ cond1 (e.sampledDir.map fun lower => if lower then 1 else 0)
        ++ cond1 (e.cause.map (·.code))
        ++ cond1 (e.pass.map (·.kind.code)) ++ cond1 (e.pass.map (·.attempt))
        ++ cond1 ((e.pass.bind (·.outcome)).map (·.code))
        ++ cond2 (e.cleanRun.map (·.remaining))
        ++ (match s.result with
            | none => List.replicate 23 0x00
            | some r =>
              [0x01, byteOf r.kind.code, byteOf r.attempt, byteOf r.policy.code, byteOf r.countA,
                  byteOf r.countB, byteOf r.countC]
                ++ (match r.key with
                    | some k => [0x01, byteOf k.h, byteOf k.i, byteOf k.j]
                    | none => [0x00, 0x00, 0x00, 0x00])
                ++ [if r.miss then 0x01 else 0x00] ++ bytes2 r.phiB ++ bytes2 r.phiC ++ bytes2 r.ratio
                ++ bytes2 r.speed ++ bytes2 r.ramp ++ [byteOf r.proving])
        ++ bytes2 s.publisher.published.toNat ++ bytes2 s.publisher.adopted.toNat) s

/-- READ_SCALE answers the entry addressed, attempts 9 to 15 as attempt 8, refuses an attempt outside 1 to
15 or a direction above 1, and an entry never loaded since reset reads 32 and 100 (R145, R147). -/
def Obligations.ReadScaleReturnsTheEntry : Prop :=
  (∀ (tag attempt direction : Byte) (s : State), s.mode = .running →
    (∀ i : Fin 16, 1 ≤ attempt.toNat → attempt.toNat ≤ 15 → direction.toNat ≤ 1 →
      i.val = 2 * (min attempt.toNat 8 - 1) + direction.toNat →
      s.Performs (.readScale tag attempt direction) tag .done
        [byteOf (min attempt.toNat 8), direction, byteOf s.tables.scale[i].ramp,
          byteOf s.tables.scale[i].proving] s) ∧
    (attempt.toNat = 0 ∨ 15 < attempt.toNat ∨ 1 < direction.toNat →
      s.Refuses (.readScale tag attempt direction) tag .badArgument)) ∧
  (∀ i : Fin 16, Tables.initial.scale[i] = { ramp := 32, proving := 100 })

/-- READ_SHIFT answers the entry selected by key or by ordinal with its ordinal and the number of entries,
NOT_FOUND with the number of entries, and refuses an invalid key, an ordinal above 63 and any other
selector (R139, R144). One byte each for an ordinal and a number of entries is the model's reading of the item
widths (DEDUCED, assumption 15). The table is in key order, as every table is
(EveryStepKeepsTablesAndEngineLaws). -/
def Obligations.ReadShiftSelectsByKeyOrOrdinal : Prop :=
  ∀ (tag a b c : Byte) (s : State), s.mode = .running → s.tables.Sound →
    let k : Key := { h := a.toNat, i := b.toNat, j := c.toNat }
    let found (ordinal : Nat) (e : ShiftEntry) : List Byte :=
      [byteOf ordinal, byteOf s.tables.shift.length, byteOf e.key.h, byteOf e.key.i, byteOf e.key.j]
        ++ bytes2 e.hi ++ bytes2 e.ij ++ bytes2 e.jh ++ bytes2 e.fsh
    (k.valid = false → s.Refuses (.readShift tag 0 a b c) tag .badArgument) ∧
    (k.valid = true → (∀ e ∈ s.tables.shift, e.key ≠ k) →
      s.Performs (.readShift tag 0 a b c) tag .notFound [byteOf s.tables.shift.length] s) ∧
    (k.valid = true → ∀ n e, s.tables.shift[n]? = some e → e.key = k →
      s.Performs (.readShift tag 0 a b c) tag .done (found n e) s) ∧
    (63 < a.toNat → s.Refuses (.readShift tag 1 a b c) tag .badArgument) ∧
    (a.toNat ≤ 63 → s.tables.shift.length ≤ a.toNat →
      s.Performs (.readShift tag 1 a b c) tag .notFound [byteOf s.tables.shift.length] s) ∧
    (a.toNat ≤ 63 → ∀ e, s.tables.shift[a.toNat]? = some e →
      s.Performs (.readShift tag 1 a b c) tag .done (found a.toNat e) s) ∧
    (∀ kind : Byte, 1 < kind.toNat → s.Refuses (.readShift tag kind a b c) tag .badArgument)

/-! ## Host requests that amend -/

/-- ACK clears each flag named, leaves the others, and answers the flags that stand after it; a flag it named
that is set again at the moment of its execution stands set in that answer; SET_MASK replaces the mask, answers
it with the flags as they stand and changes no flag; from then on ATTN_N is low exactly while a flag is set and
enabled (R181 to R183). That the answer takes in the flags set again at that very moment and none set later is
the model's choice between R181 and R175 (assumption 27). -/
def Obligations.AckAndSetMaskDriveAttention : Prop :=
  ∀ (tag byte : Byte) (s : State), s.mode = .running →
    (∃ left : Byte,
      (∀ n, left.getLsbD n = (s.port.flags.getLsbD n && !byte.getLsbD n)) ∧
      exec (.ack tag byte) s = .next ((s.setCsN true).setPort { s.port with
        state := .preparing s.time
        answer := some { code := .done, tag := tag, payload := [left], acked := byte }
        miso := []
        flags := left }) ∧
      ∀ t, exec (.ack tag byte) s = .next t →
        (t.attnN = false ↔ ∃ n, left.getLsbD n = true ∧ s.port.mask.getLsbD n = true) ∧
        ∀ f : Flag, ∃ stands : Byte,
          (∀ n, stands.getLsbD n = (left.getLsbD n || (byte.getLsbD n && decide (n = f.number)))) ∧
          (t.setFlag f).tick.port.answer = some { code := .done, tag := tag, payload := [stands] }) ∧
    s.Performs (.setMask tag byte) tag .done [byte, s.port.flags]
      (s.setPort { s.port with mask := byte }) ∧
    ∀ t, exec (.setMask tag byte) s = .next t →
      (t.attnN = false ↔ ∃ n, s.port.flags.getLsbD n = true ∧ byte.getLsbD n = true)

/-- An ENROL that passes its checks: the record's fields, its state by contact and engine state, the
answer, and nothing else changed (R26). It is refused, and nothing changes, at the first of R25's checks that
fails. -/
def Obligations.EnrolSetsTheRecordOrIsRefused : Prop :=
  (∀ (tag tally : Byte) (p : Pos) (ch : Chan) (serial : BitVec 32) (s : State),
    s.mode = .running → serial ≠ 0 →
    (s.engine.state = .config ∨ s.engine.state = .dormant) →
    (s.record p).state = .empty → s.Unassigned ch → (∀ q, (s.record q).serial ≠ some serial) →
    (s.record p).contact ≠ .unsettled →
    ∃ r : Record,
      s.Performs (.enrol tag (posByte p) (chanByte ch) serial tally) tag
        (if 15 < tally.toNat then .clamped else .done) [byteOf r.state.code] (s.setRecord p r) ∧
      r.channel = some ch ∧ r.serial = some serial ∧ r.tally = min tally.toNat 15 ∧
      r.cleanRun = some 0 ∧ r.contact = (s.record p).contact ∧ r.closeFailed = false ∧
      r.cause = none ∧ r.stamp = none ∧ r.voltage = none ∧ r.temperature = none ∧
      r.reported = none ∧ r.offset = none ∧ r.prior = none ∧
      ((s.record p).contact = .closed → min tally.toNat 15 < s.params.qLim →
        r.state = .bypassed ∧ r.probation = none) ∧
      ((s.record p).contact = .closed → s.params.qLim ≤ min tally.toNat 15 →
        r.state = .quarantined ∧ r.probation = none) ∧
      ((s.record p).contact = .opened → s.engine.state = .config →
        r.state = .inService ∧ r.probation = none) ∧
      ((s.record p).contact = .opened → s.engine.state = .dormant →
        r.state = .probation ∧ r.probation = some s.params.tPROB)) ∧
  ∀ (tag position channel tally : Byte) (serial : BitVec 32) (s : State), s.mode = .running →
    (30 ≤ position.toNat ∨ 32 ≤ channel.toNat ∨ serial = 0 →
      s.Refuses (.enrol tag position channel serial tally) tag .badArgument) ∧
    ∀ (p : Pos) (ch : Chan), position = posByte p → channel = chanByte ch → serial ≠ 0 →
      let mode := s.engine.state = .config ∨ s.engine.state = .dormant
      let used := (∃ q, (s.record q).channel = some ch) ∨ ∃ q, (s.record q).serial = some serial
      (¬mode → s.Refuses (.enrol tag position channel serial tally) tag .wrongMode) ∧
      (mode → (s.record p).state ≠ .empty →
        s.Refuses (.enrol tag position channel serial tally) tag .wrongState) ∧
      (mode → (s.record p).state = .empty → used →
        s.Refuses (.enrol tag position channel serial tally) tag .duplicate) ∧
      (mode → (s.record p).state = .empty → ¬used → (s.record p).contact = .unsettled →
        s.Refuses (.enrol tag position channel serial tally) tag .notSettled)

/-- RETIRE empties the position but for its contact and clears the fault-reset latch of its channel; its
refusals in order (R27, R49). -/
def Obligations.RetireEmptiesThePosition : Prop :=
  ∀ (tag : Byte) (s : State), s.mode = .running →
    (∀ b : Byte, 30 ≤ b.toNat → s.Refuses (.retire tag b) tag .badArgument) ∧
    ∀ p : Pos,
      let st := (s.record p).state
      let admitted := s.engine.state = .config ∨ st = .bypassed ∨ st = .quarantined
      (st = .empty → s.Refuses (.retire tag (posByte p)) tag .notFound) ∧
      (st ≠ .empty → ¬admitted → s.Refuses (.retire tag (posByte p)) tag .wrongState) ∧
      (st ≠ .empty → admitted → ∃ u,
        s.Performs (.retire tag (posByte p)) tag .done [] u ∧
        u.record p =
          { state := .empty, channel := none, serial := none, tally := 0, cause := none, stamp := none,
            closeFailed := false, contact := (s.record p).contact, voltage := none, temperature := none,
            reported := none, cleanRun := none, offset := none, probation := none, prior := none } ∧
        s.OtherRecords u p ∧
        (∀ ch, (s.record p).channel = some ch → (u.link ch).rx = (s.link ch).rx ∧
          (u.link ch).tx = { (s.link ch).tx with faultReset := false }) ∧
        (∀ ch, (s.record p).channel ≠ some ch → u.link ch = s.link ch) ∧
        s.ChangesOnly u [.roster, .links])

/-- READMIT makes a BYPASSED record OPENING and lists an OPEN entry stamped with the time base at its place
in the list; its refusals in order (R28, R75, R77). -/
def Obligations.ReadmitListsAnOpenEntry : Prop :=
  ∀ (tag : Byte) (s : State), s.mode = .running →
    (∀ b : Byte, 30 ≤ b.toNat → s.Refuses (.readmit tag b) tag .badArgument) ∧
    ∀ p : Pos,
      (s.engine.state ≠ .dormant → s.Refuses (.readmit tag (posByte p)) tag .wrongMode) ∧
      (s.engine.state = .dormant → (s.record p).state ≠ .bypassed →
        s.Refuses (.readmit tag (posByte p)) tag .wrongState) ∧
      (s.engine.state = .dormant → (s.record p).state = .bypassed → ∃ orders : List Entry,
        Entry.Joins
          { pos := p, kind := .toOpen, stamp := s.time, holdOff := false, holdOffRun := false, hold := false }
          s.matrix.orders orders ∧
        s.Performs (.readmit tag (posByte p)) tag .done []
          ((s.setRecord p { s.record p with state := .opening }).setMatrix
            { s.matrix with orders := orders }))

/-- The scope of a CLEAR_TALLY: kind 0 a position, 1 a phase, 2 all (R20). Every record in scope has tally 0
and every QUARANTINED one becomes BYPASSED; a released record whose contact reads OPEN becomes IN_SERVICE in
CONFIG, and FAULTED with CONTACT_OPEN elsewhere, with FAULT_TAKEN set and its CLOSE entry listed, one for each; no other flag,
entry or part of the matrix and the port changes; the answer is the number released (R29, R6, R58). In PUBLISHING, VERIFYING, PROVING and RUNNING such a fault sends the fault
notice: the pass ends and attempt accounting is made, once for them all (R60, R100). There it is stated of
QUARANTINED records without the close-failed mark, as every one is (EveryStepKeepsTheSwitchLaws). -/
def Obligations.ClearTallyReleasesRecords : Prop :=
  (∀ p : Pos, scopeOf 0 (posByte p) = some [p]) ∧
  (∀ b : Byte, 30 ≤ b.toNat → scopeOf 0 b = none) ∧
  (∀ q : Byte, q.toNat ≤ 2 → ∃ l, scopeOf 1 q = some l ∧ l.Nodup ∧
    ∀ p : Pos, p ∈ l ↔ p.val / 10 = q.toNat) ∧
  (∀ b : Byte, 2 < b.toNat → scopeOf 1 b = none) ∧
  (∀ b : Byte, ∃ l, scopeOf 2 b = some l ∧ l.Nodup ∧ ∀ p : Pos, p ∈ l) ∧
  (∀ kind b : Byte, 2 < kind.toNat → scopeOf kind b = none) ∧
  ∀ (tag kind index : Byte) (s : State), s.mode = .running →
    (scopeOf kind index = none → s.Refuses (.clearTally tag kind index) tag .badArgument) ∧
    ∀ scope, scopeOf kind index = some scope →
      let released (p : Pos) : Prop := p ∈ scope ∧ (s.record p).state = .quarantined
      let opened (p : Pos) : Prop := released p ∧ (s.record p).contact = .opened
      let listed (p : Pos) : Entry :=
        { pos := p, kind := .toClose, stamp := s.time, holdOff := false, holdOffRun := false, hold := false }
      let ends := (s.engine.state = .publishing ∨ s.engine.state = .verifying ∨
        s.engine.state = .proving ∨ s.engine.state = .running) ∧ ∃ p, opened p
      (ends → ∀ p, opened p → (s.record p).closeFailed = false) →
      ∃ u v,
        s.Performs (.clearTally tag kind index) tag .done
          [byteOf (scope.filter fun p => (s.record p).state == .quarantined).length] v ∧
        (ends → u.Accounts v .endedByFault) ∧ (¬ends → v = u) ∧
        (∀ p, p ∉ scope → u.record p = s.record p) ∧
        (∀ p, p ∈ scope → ¬released p → u.record p = { s.record p with tally := 0 }) ∧
        (∀ p, released p → ¬opened p →
          u.record p = { s.record p with tally := 0, state := .bypassed }) ∧
        (∀ p, opened p → s.engine.state = .config →
          u.record p = { s.record p with tally := 0, state := .inService }) ∧
        (∀ p, opened p → s.engine.state ≠ .config →
          u.record p = { s.record p with
            tally := 0, state := .faulted, cause := some .contactOpen, stamp := some s.time }) ∧
        (s.engine.state = .config ∨ (∀ p, ¬opened p) → u.matrix = s.matrix ∧ u.port = s.port) ∧
        (s.engine.state ≠ .config → (∃ p, opened p) → s.Raises u [.faultTaken]) ∧
        (s.engine.state ≠ .config →
          s.matrix.orders.Sublist u.matrix.orders ∧
          (∀ e, e ∈ u.matrix.orders ↔ e ∈ s.matrix.orders ∨ ∃ p, opened p ∧ e = listed p) ∧
          u.matrix.orders.length = s.matrix.orders.length + (scope.filter fun p =>
            (s.record p).state == .quarantined && (s.record p).contact == .opened).length ∧
          u.matrix = { s.matrix with orders := u.matrix.orders }) ∧
        s.ChangesOnly u [.roster, .matrix, .port]

/-- The 26 parameters: their ranges and defaults, and no others (R192). -/
def Obligations.ParameterTable : Prop :=
  ((List.range 26).map fun n => (paramRange n, Params.initial.get n)) =
    [(some (1, 10), 6), (some (1, 10), 4), (some (0, 10000), 2000), (some (0, 2000), 500),
      (some (50, 1500), 600), (some (0, 15), 3), (some (1, 15), 1), (some (1, 15), 3), (some (0, 31), 16),
      (some (0, 1023), 600), (some (0, 1023), 820), (some (0, 1), 0), (some (2, 50), 5),
      (some (0, 50000), 2000), (some (10, 250), 80), (some (50, 2000), 300), (some (50, 1000), 200),
      (some (100, 2000), 400), (some (5, 300), 50), (some (100, 10000), 2000), (some (1, 100), 20),
      (some (0, 5000), 200), (some (100, 30000), 3000), (some (1, 30), 5), (some (10, 3600), 120),
      (some (60, 36000), 1800)] ∧
  (∀ n, 25 < n → paramRange n = none) ∧ State.reset.params = Params.initial

/-- SET_PARAM is refused above number 25 and outside CONFIG; accepted, it stores the value within its range
and then within the cross-clamp of its pair, adjusts the partner, leaves every other parameter, and answers
the value stored, CLAMPED when that is not the value carried (R193, R194). tSIL, number 17, which can also
detect silence, has a statement of its own. -/
def Obligations.SetParamClampsAndStores : Prop :=
  ∀ (tag number : Byte) (value : BitVec 32) (s : State), s.mode = .running →
    let n := number.toNat
    let old := s.params
    (25 < n → s.Refuses (.setParam tag number value) tag .badArgument) ∧
    (n ≤ 25 → s.engine.state ≠ .config → s.Refuses (.setParam tag number value) tag .wrongMode) ∧
    ∀ lo hi, paramRange n = some (lo, hi) → s.engine.state = .config → n ≠ 17 →
      ∃ (ps : Params) (within stored : Nat),
        within = (if value.toNat < lo then lo else if hi < value.toNat then hi else value.toNat) ∧
        stored = (if n = 13 then min within (1000 * old.tHO)
          else if n = 22 then max within old.tVMIN
          else if n = 10 ∧ within ≠ 0 then max within old.vLo
          else within) ∧
        ps.get n = stored ∧
        ps.tCC = (if n = 13 then stored else if n = 12 then min old.tCC (1000 * stored) else old.tCC) ∧
        ps.tVER = (if n = 22 then stored else if n = 21 then max old.tVER stored else old.tVER) ∧
        ps.vHi = (if n = 10 then stored
          else if n = 9 ∧ old.vHi ≠ 0 then max old.vHi stored else old.vHi) ∧
        (∀ m, m ≤ 25 → m ≠ n → m ≠ 13 → m ≠ 22 → m ≠ 10 → ps.get m = old.get m) ∧
        s.Performs (.setParam tag number value) tag
          (if stored = value.toNat then .done else .clamped) (bytes4 stored) (s.setParams ps)

/-- SET_PARAM of tSIL in CONFIG: a LIVE receiver whose silence timer has already reached the value stored
becomes SILENT in the same event, with its open frame dropped and the run of its record at 0; every other
link and record stays (R44, R197). -/
def Obligations.SetParamSilenceTimeDetects : Prop :=
  ∀ (tag : Byte) (value : BitVec 32) (s : State), s.mode = .running → s.engine.state = .config →
    let stored := if value.toNat < 100 then 100 else if 2000 < value.toNat then 2000 else value.toNat
    let silenced (ch : Chan) : Prop := (s.link ch).rx.link = .live ∧
      ∃ since, (s.link ch).rx.silence = some since ∧ stored ≤ (s.time - since).toNat
    ∃ u : State,
      s.Performs (.setParam tag 17 value) tag
        (if stored = value.toNat then .done else .clamped) (bytes4 stored) u ∧
      u.params = { s.params with tSIL := stored } ∧
      s.ChangesOnly u [.params, .links, .roster] ∧
      (∀ ch, silenced ch → u.link ch =
        { rx := { (s.link ch).rx with link := .silent, silence := none, frame := none },
          tx := (s.link ch).tx }) ∧
      (∀ ch, ¬silenced ch → u.link ch = s.link ch) ∧
      (∀ p ch, s.Assigned ch p → silenced ch →
        u.record p = { s.record p with cleanRun := some 0 }) ∧
      (∀ p, (∀ ch, silenced ch → (s.record p).channel ≠ some ch) → u.record p = s.record p)

/-- LOAD_SHIFT: its refusals in order, and an accepted load puts the entry under its key, F_sh at most 10000,
leaves every other key, inserts or replaces, and answers ordinal, entries, which of the two, and F_sh
(R140 to R142, R148). One byte each for the ordinal and the number of entries is the model's reading of the item
widths (DEDUCED, assumption 15). -/
def Obligations.LoadShiftPutsTheEntry : Prop :=
  ∀ (tag h i j : Byte) (hi ij jh fsh : BitVec 16) (s : State), s.mode = .running →
    let c : Instr := .loadShift tag h i j hi ij jh fsh
    let k : Key := { h := h.toNat, i := i.toNat, j := j.toNat }
    let sound := k.valid = true ∧ anglesWellFormed hi.toNat ij.toNat jh.toNat = true
    let amends := s.engine.state = .config ∨ s.engine.state = .dormant ∨ s.engine.state = .lockout
    let present := ∃ e ∈ s.tables.shift, e.key = k
    (¬sound → s.Refuses c tag .badArgument) ∧
    (sound → ¬amends → s.Refuses c tag .wrongMode) ∧
    (sound → amends → ¬present → 64 ≤ s.tables.shift.length → s.Refuses c tag .full) ∧
    (sound → amends → (present ∨ s.tables.shift.length < 64) → ∃ (l : List ShiftEntry) (replaced : Nat),
      s.Performs c tag (if 10000 < fsh.toNat then .clamped else .done)
        ([byteOf (l.filter fun e => e.key.below k).length, byteOf l.length, byteOf replaced]
          ++ bytes2 (min fsh.toNat 10000))
        (s.setTables { s.tables with shift := l }) ∧
      findShift l k =
        some { key := k, hi := hi.toNat, ij := ij.toNat, jh := jh.toNat, fsh := min fsh.toNat 10000 } ∧
      (∀ k', k' ≠ k → findShift l k' = findShift s.tables.shift k') ∧
      (present → replaced = 1 ∧ l.length = s.tables.shift.length) ∧
      (¬present → replaced = 0 ∧ l.length = s.tables.shift.length + 1))

/-- DROP_SHIFT: its refusals in order, and an accepted one removes the entry, leaves every other key, and
answers the number remaining; a lookup of the key misses from then on (R143). One byte for that number is the model's
reading of the item widths (DEDUCED, assumption 15). -/
def Obligations.DropShiftRemovesTheEntry : Prop :=
  ∀ (tag h i j : Byte) (s : State), s.mode = .running → s.tables.Sound →
    let c : Instr := .dropShift tag h i j
    let k : Key := { h := h.toNat, i := i.toNat, j := j.toNat }
    let amends := s.engine.state = .config ∨ s.engine.state = .dormant ∨ s.engine.state = .lockout
    let present := ∃ e ∈ s.tables.shift, e.key = k
    (k.valid = false → s.Refuses c tag .badArgument) ∧
    (k.valid = true → ¬amends → s.Refuses c tag .wrongMode) ∧
    (k.valid = true → amends → ¬present → s.Refuses c tag .notFound) ∧
    (k.valid = true → amends → present → ∃ l : List ShiftEntry,
      s.Performs c tag .done [byteOf l.length] (s.setTables { s.tables with shift := l }) ∧
      l.length + 1 = s.tables.shift.length ∧ findShift l k = none ∧
      ∀ k', k' ≠ k → findShift l k' = findShift s.tables.shift k')

/-- LOAD_SCALE: its refusals in order, and an accepted one writes both fields of the entry addressed, each
brought within its range, leaves every other entry, and answers what it wrote (R145, R146). -/
def Obligations.LoadScaleWritesTheEntry : Prop :=
  ∀ (tag attempt direction ramp proving : Byte) (s : State), s.mode = .running →
    let c : Instr := .loadScale tag attempt direction ramp proving
    let valid := 1 ≤ attempt.toNat ∧ attempt.toNat ≤ 15 ∧ direction.toNat ≤ 1
    let amends := s.engine.state = .config ∨ s.engine.state = .dormant ∨ s.engine.state = .lockout
    (¬valid → s.Refuses c tag .badArgument) ∧
    (valid → ¬amends → s.Refuses c tag .wrongMode) ∧
    (valid → amends → ∃ (scale : Vector ScaleEntry 16) (r p : Nat),
      r = (if ramp.toNat = 0 then 1 else if 64 < ramp.toNat then 64 else ramp.toNat) ∧
      p = (if proving.toNat < 20 then 20 else if 150 < proving.toNat then 150 else proving.toNat) ∧
      s.Performs c tag (if r = ramp.toNat ∧ p = proving.toNat then .done else .clamped)
        [byteOf (min attempt.toNat 8), direction, byteOf r, byteOf p]
        (s.setTables { s.tables with scale := scale }) ∧
      (∀ i : Fin 16, i.val = 2 * (min attempt.toNat 8 - 1) + direction.toNat →
        scale[i] = { ramp := r, proving := p }) ∧
      (∀ i : Fin 16, i.val ≠ 2 * (min attempt.toNat 8 - 1) + direction.toNat →
        scale[i] = s.tables.scale[i]))

/-! ## START, CLEAR_LOCKOUT and the resets -/

/-- START is refused outside CONFIG and while a phase has fewer than N_MIN records in IN_SERVICE; accepted, the
engine goes to DORMANT with ENERGIZED low and to CHARGING with its grace timer started with ENERGIZED high,
and with ESTOP_N low on to LOCKOUT with cause ESTOP in the same event (R94, R198, R199). With no OPEN entry
listed, and none is in CONFIG, nothing else changes. -/
def Obligations.StartChecksPhasesAndLines : Prop :=
  ∀ (tag : Byte) (s : State), s.mode = .running →
    let inService (q : Nat) : Nat :=
      (allPositions.filter fun p => p.val / 10 == q && (s.record p).state == .inService).length
    let complete :=
      s.params.nMin ≤ inService 0 ∧ s.params.nMin ≤ inService 1 ∧ s.params.nMin ≤ inService 2
    (s.engine.state ≠ .config → s.Refuses (.start tag) tag .wrongMode) ∧
    (s.engine.state = .config → ¬complete → s.Refuses (.start tag) tag .incomplete) ∧
    (s.engine.state = .config → complete → ∃ u,
      s.Performs (.start tag) tag .done [] u ∧
      (s.lines.estopN.level = true → s.lines.energized.level = false →
        u.engine = s.engine.enter .dormant ∧ s.Raises u [.stateChange]) ∧
      (s.lines.estopN.level = true → s.lines.energized.level = true →
        u.engine = { s.engine.enter .charging with grace := some s.time } ∧ s.Raises u [.stateChange]) ∧
      (s.lines.estopN.level = false → u.engine = s.engine.lockedOut .estop) ∧
      ((∀ e ∈ s.matrix.orders, e.kind = .toClose) →
        (s.lines.estopN.level = false → s.Raises u [.stateChange, .lockedOut]) ∧
        u.publisher = s.publisher.stopped ∧ s.ChangesOnly u [.engine, .publisher, .port]))

/-- CLEAR_LOCKOUT is refused but in LOCKOUT with ESTOP_N and BRAKE_SET high. Accepted, every close-failed mark
is cleared and its record listed for closing at once, the attempt count is 1, the cause is gone, MANRIDE and
DIR are sampled, and the engine goes to DORMANT with ENERGIZED low, and else to BYPASSING with a RESTART pass
to come, where the exit is tested (R12, R105, R115). -/
def Obligations.ClearLockoutRelistsAndResumes : Prop :=
  ∀ (tag : Byte) (s : State), s.mode = .running →
    let admitted := s.engine.state = .lockout ∧ s.lines.estopN.level = true ∧
      s.lines.brakeSet.level = true
    let e : Engine := { s.engine with
      attempts := 1, cause := none, sampledManride := some s.lines.manride.level,
      sampledDir := some s.lines.dir.level }
    (¬admitted → s.Refuses (.clearLockout tag) tag .wrongMode) ∧
    (admitted → ∃ r u : State,
      (∀ p, r.record p = { s.record p with closeFailed := false }) ∧
      (∀ x, x ∈ r.matrix.orders ↔ x ∈ s.matrix.orders ∨
        ∃ p, (s.record p).closeFailed = true ∧ x =
          { pos := p, kind := .toClose, stamp := s.time, holdOff := false, holdOffRun := false,
            hold := false }) ∧
      r.matrix = { s.matrix with orders := r.matrix.orders } ∧
      r.publisher = s.publisher.stopped ∧ s.Raises r [.stateChange] ∧
      s.ChangesOnly r [.roster, .matrix, .engine, .publisher, .port] ∧
      (s.lines.energized.level = false → r.engine = e.enter .dormant ∧ u = r) ∧
      (s.lines.energized.level = true →
        r.engine = { e.enter .bypassing with passToCome := some .restart } ∧ r.ExitTests u) ∧
      s.Performs (.clearLockout tag) tag .done [] u)

/-- POWER_ON_RESET, PIN_RESET and RESET take every block to its after-reset values and hold the part in reset
with the reset-cause record written, the outputs at the levels of CONFIG and no line of the matrix driven
(R187 to R189). SUPPLY_LOSS leaves the part without supply (R190). That the pins keep their levels is the model's
choice (assumption 2), as are what SUPPLY_LOSS leaves in State, that PIN_RESET without supply changes nothing
(assumption 6), and that the waiting commands stay (assumption 24). -/
def Obligations.ResetsTakeEveryBlockBack : Prop :=
  ∀ s : State,
    let firing : Bool := s.fireLine.isSome
    let reset (t : State) (record : ResetRecord) : Prop :=
      t.mode = .held record.cause ∧ t.port = Port.initial record ∧
      t.matrix = { Matrix.initial with dwell := none } ∧
      State.reset.ChangesOnly t [.mode, .lines, .sense, .csN, .matrix, .port, .choices, .pending] ∧
      s.ChangesOnly t [.mode, .time, .lines, .csN, .params, .roster, .accrual, .links, .downlinkSince, .intake,
        .matrix, .engine, .result, .tables, .publisher, .port] ∧
      t.lines.energized.pin = s.lines.energized.pin ∧ t.lines.estopN.pin = s.lines.estopN.pin ∧
      t.lines.brakeSet.pin = s.lines.brakeSet.pin ∧ t.lines.proven.pin = s.lines.proven.pin ∧
      t.lines.manride.pin = s.lines.manride.pin ∧ t.lines.dir.pin = s.lines.dir.pin ∧
      t.tripN = false ∧ t.brakeHold = true ∧ t.proveEn = false ∧ t.attnN = true ∧
      t.rankSelect = none ∧ t.fireLine = none
    (∃ t, exec .powerOnReset s = .next t ∧ reset t { cause := .powerOn, engine := none, pulseCut := false }) ∧
    (s.mode = .running →
      (∃ t, exec .pinReset s = .next t ∧
        reset t { cause := .pin, engine := some s.engine.state, pulseCut := firing }) ∧
      ∃ t, exec .reset s = .next t ∧ t.csN = true ∧
        reset t { cause := .request, engine := some s.engine.state, pulseCut := firing }) ∧
    (∀ c, s.mode = .held c → ∃ t, exec .pinReset s = .next t ∧
      reset t { s.port.resetRecord with cause := .pin }) ∧
    (s.mode = .off → exec .pinReset s = .next s) ∧
    (∃ t, exec .supplyLoss s = .next t ∧ t.mode = .off ∧ t.pending = s.pending)

/-- While a reset is held or the supply is lost, no request and no event acts on the part: but for the resets,
CS_N and the edges of the winder lines, every command leaves the state as it is, and an edge leaves all but
the lines. RESET_END starts the time base, the first dwell and the first downlink period at 0, qualifies the
input lines anew, and leaves the port READY; a transaction begun within a request reset is early from then on,
its MISO the status byte with ANSWER_READY clear (R184, R188, R204). Without a reset held it changes nothing.
The model's choices: that no command acts without supply (assumption 6), that RESET_END ends whatever reset is
held, whatever level RST_N stands at, and without one changes nothing (assumptions 11 and 28), and the early
transaction of a request reset between R184 and R185 (assumption 21). -/
def Obligations.HeldPartWaitsForResetEnd : Prop :=
  (∀ (c : Instr) (s : State), s.mode ≠ .running →
    match c with
    | .powerOnReset | .pinReset | .resetEnd | .supplyLoss | .transactionBegin | .transactionEnd _ => True
    | .energizedRising | .energizedFalling | .estopNFalling | .brakeSetRising | .brakeSetFalling
    | .provenRising => ∃ t, exec c s = .next t ∧ s.ChangesOnly t [.lines] ∧
        t.lines.energized.qualified = s.lines.energized.qualified ∧
        t.lines.estopN.qualified = s.lines.estopN.qualified ∧
        t.lines.brakeSet.qualified = s.lines.brakeSet.qualified ∧
        t.lines.proven.qualified = s.lines.proven.qualified
    | c => exec c s = .next s) ∧
  ∀ s : State,
    (s.mode = .running ∨ s.mode = .off → exec .resetEnd s = .next s) ∧
    ∀ c, s.mode = .held c → ∃ t, exec .resetEnd s = .next t ∧ t.mode = .running ∧ t.time = 0 ∧
      t.downlinkSince = 0 ∧ t.matrix = { s.matrix with dwell := some 0 } ∧
      (c = .request ∧ s.csN = false → t.port = { s.port with
        state := .early 0 true
        miso := [byteOf (128 + (if s.engine.state = .lockout then 32 else 0)
          + (if s.port.flags = 0 then 0 else 16) + s.engine.state.code)] }) ∧
      (c ≠ .request ∨ s.csN = true → t.port = { s.port with state := .ready }) ∧
      (t.lines.energized.qualified = none ∧ t.lines.energized.pin = s.lines.energized.pin) ∧
      (t.lines.estopN.qualified = none ∧ t.lines.estopN.pin = s.lines.estopN.pin) ∧
      (t.lines.brakeSet.qualified = none ∧ t.lines.brakeSet.pin = s.lines.brakeSet.pin) ∧
      (t.lines.proven.qualified = none ∧ t.lines.proven.pin = s.lines.proven.pin) ∧
      (t.lines.manride.qualified = none ∧ t.lines.manride.pin = s.lines.manride.pin) ∧
      (t.lines.dir.qualified = none ∧ t.lines.dir.pin = s.lines.dir.pin) ∧
      s.ChangesOnly t [.mode, .time, .lines, .downlinkSince, .matrix, .port]

/-! ## The roster port -/

/-- TRANSACTION_BEGIN with an answer ready takes it: MISO carries the status byte captured now, the code, the
tag, the length, the payload and the CRC-8, an ACK's payload with the flags it named that are set again at its
own moment. With the answer in preparation the transaction is early: a status byte with ANSWER_READY clear.
While CS_N is low already no transaction begins. TRANSACTION_END of a transaction that the port did not serve
executes no request: an early one leaves the port READY or PREPARING with its answer kept. ANSWER_READY makes
the answer in preparation ready. While a reset is held, or without supply, CS_N is followed and nothing else.
MISO is released while CS_N is high or a reset is held; in a transaction it shifts its bytes most significant
bit first, and zeros after the last (R169 to R172, R177, R181, R185, R201). The model's choices: that ANSWER_READY
changes nothing with the port READY or SERVING (DEDUCED, assumption 5), that without supply CS_N is followed and
nothing else (assumption 6), the fate of a transaction begun within a request reset (assumption 21), and the
flags that join an ACK's answer (assumption 27). -/
def Obligations.TransactionsWalkThePort : Prop :=
  ∀ s : State,
    let status (ready : Bool) : Byte := byteOf (128 + (if ready then 64 else 0)
      + (if s.engine.state = .lockout then 32 else 0) + (if s.port.flags = 0 then 0 else 16)
      + s.engine.state.code)
    (s.csN = false → exec .transactionBegin s = .next s) ∧
    (s.csN = true → s.mode = .running → ∀ a, s.port.state = .ready → s.port.answer = some a →
      let payload := a.payload.map (· ||| (s.port.flags &&& a.acked))
      exec .transactionBegin s = .next ((s.setCsN false).setPort { s.port with
        state := .serving, answer := none
        miso := [status true, byteOf a.code.code, a.tag, byteOf payload.length] ++ payload
          ++ [crc8 ([status true, byteOf a.code.code, a.tag, byteOf payload.length] ++ payload)] })) ∧
    (s.csN = true → s.mode = .running → ∀ since, s.port.state = .preparing since →
      exec .transactionBegin s = .next ((s.setCsN false).setPort { s.port with
        state := .early since false, miso := [status false] })) ∧
    (s.csN = true → s.mode ≠ .running → exec .transactionBegin s = .next (s.setCsN false)) ∧
    (∀ mosi, s.csN = true → exec (.transactionEnd mosi) s = .next s) ∧
    (∀ mosi, s.csN = false → s.mode ≠ .running →
      exec (.transactionEnd mosi) s = .next (s.setCsN true)) ∧
    (s.mode = .running → ∀ mosi, s.csN = false →
      (∀ since, s.port.state = .early since true → exec (.transactionEnd mosi) s =
        .next ((s.setCsN true).setPort { s.port with state := .ready, miso := [] })) ∧
      (∀ since, s.port.state = .early since false → exec (.transactionEnd mosi) s =
        .next ((s.setCsN true).setPort { s.port with state := .preparing since, miso := [] })) ∧
      (s.port.state = .ready → exec (.transactionEnd mosi) s = .next (s.setCsN true)) ∧
      (∀ since, s.port.state = .preparing since →
        exec (.transactionEnd mosi) s = .next (s.setCsN true))) ∧
    (s.mode = .running → ∀ since, s.port.state = .preparing since →
      exec .answerReady s = .next (s.setPort { s.port with state := .ready })) ∧
    (s.mode = .running → ∀ since ready, s.port.state = .early since ready →
      exec .answerReady s = .next (s.setPort { s.port with state := .early since true })) ∧
    (s.mode = .running → s.port.state = .ready ∨ s.port.state = .serving →
      exec .answerReady s = .next s) ∧
    (s.csN = true ∨ s.mode ≠ .running → ∀ n, s.misoBit n = none) ∧
    (s.csN = false → s.mode = .running →
      (s.port.state = .serving ∨ ∃ since ready, s.port.state = .early since ready) →
      ∀ n k, k < 8 → s.misoBit (8 * n + k) = some ((s.port.miso.getD n 0x00).getLsbD (7 - k)))

/-- The port's judgment of the bytes received: too few bytes, a length above 40, bytes missing or a wrong CRC
are BAD_FRAME with the second byte received as the tag; a code outside 0x01 to 0x18 is UNKNOWN_REQUEST, and a
length other than the catalogue's is BAD_ARGUMENT. A refused frame changes nothing but the port's answer
(R173, R174, R176). -/
def Obligations.FramesAreJudged : Prop :=
  ∀ (s : State) (bytes : List Byte) (left : List Bool), s.mode = .running → s.csN = false →
    s.port.state = .serving → left.length < 8 →
    let answered (code : AnswerCode) (tag : Byte) : Prop :=
      exec (.transactionEnd (bytes.flatMap byteBits ++ left)) s =
        .next ((s.setCsN true).setPort { s.port with
          state := .preparing s.time, answer := some { code := code, tag := tag, payload := [] }
          miso := [] })
    let lengths : List Nat :=
      [0, 1, 1, 4, 1, 1, 7, 1, 1, 2, 5, 1, 0, 11, 3, 4, 4, 2, 0, 0, 1, 1, 0, 0]
    (bytes.length < 3 → answered .badFrame (bytes.getD 1 0)) ∧
    ∀ (code tag len : Byte) (rest : List Byte), bytes = code :: tag :: len :: rest →
      (40 < len.toNat → answered .badFrame tag) ∧
      (len.toNat ≤ 40 → rest.length ≤ len.toNat → answered .badFrame tag) ∧
      (len.toNat ≤ 40 → ∀ crc, rest[len.toNat]? = some crc →
        let right := crc = crc8 (code :: tag :: len :: rest.take len.toNat)
        (¬right → answered .badFrame tag) ∧
        (right → code = 0 ∨ 0x18 < code.toNat → answered .unknownRequest tag) ∧
        (right → code ≠ 0 → code.toNat ≤ 0x18 → lengths[code.toNat - 1]? ≠ some len.toNat →
          answered .badArgument tag))

/-- The frame of any of the 24 requests, received whole and followed by any padding, executes exactly that
request as one event at the CS_N rising (R173 to R175, R201). -/
def Obligations.RequestFramesExecuteTheirRequest : Prop :=
  ∀ (i : Instr) (resetTag : Byte) (bytes : List Byte) (padding : List Bool) (s : State),
    Instr.requestBytes resetTag i = some bytes → s.mode = .running → s.csN = false →
    s.port.state = .serving →
    exec (.transactionEnd ((bytes ++ [crc8 bytes]).flatMap byteBits ++ padding)) s =
      exec i (s.setCsN true)

/-! ## Cell links -/

/-- The fields of an uplink frame: sequence and fault code in word 0, codes 8 to 15 read as CONTROL, the
voltage in words 1 and 2, the temperature in word 3 offset by 40 and held at 150 above 190 (R35). A line word
is a low start bit, eight data bits least significant first, the marker, even parity and a high stop bit
(R31, R201), and a word of the modulation link the same without marker and parity (R152, R201). Every field wider than a byte goes most significant byte first, and a conditional item is a
presence byte, then its value, zero where the item is absent (R176, R201). -/
def Obligations.FieldsWordsAndItemsAreLaidOut : Prop :=
  (∀ b0 b1 b2 b3 : Byte,
    let f := decodeUplink b0 b1 b2 b3
    f.seq.toNat = b0.toNat % 16 ∧
    f.code = ([.none, .dcOver, .dcUnder, .overtemp, .desat, .gateSupply, .inputFuse] : List CellCode).getD
      (b0.toNat / 16) .control ∧
    f.voltage = b1.toNat + 256 * (b2.toNat % 4) ∧
    (b3.toNat ≤ 190 → f.temperature = (b3.toNat : Int) - 40) ∧
    (190 < b3.toNat → f.temperature = 150)) ∧
  (∀ (b : Byte) (marker : Bool),
    let w := lineWord b marker
    w.getLsbD 0 = false ∧ (∀ i < 8, w.getLsbD (i + 1) = b.getLsbD i) ∧ w.getLsbD 9 = marker ∧
    ((List.range 10).filter fun i => w.getLsbD (i + 1)).length % 2 = 0 ∧ w.getLsbD 11 = true) ∧
  (∀ b : Byte,
    let w := modWord b
    w.getLsbD 0 = false ∧ (∀ i < 8, w.getLsbD (i + 1) = b.getLsbD i) ∧ w.getLsbD 9 = true ∧
    modData w = b) ∧
  (∀ n : Nat, bytes2 n = [byteOf (n / 256), byteOf n]) ∧
  (∀ n : Nat, n < 4294967296 → bytes4 n = bytes2 (n / 65536) ++ bytes2 (n % 65536)) ∧
  (∀ n : Nat, cond1 (some n) = [0x01, byteOf n] ∧ cond2 (some n) = 0x01 :: bytes2 n ∧
    cond4 (some n) = 0x01 :: bytes4 n) ∧
  cond1 none = [0x00, 0x00] ∧ cond2 none = [0x00, 0x00, 0x00] ∧
  cond4 none = [0x00, 0x00, 0x00, 0x00, 0x00]

/-- UPLINK_FRAME with a wrong checksum is a bad frame. A repeated sequence restarts the silence timer of a LIVE
receiver and does nothing else, but for STRAY_FRAME on an unassigned channel. Any other valid frame is
accepted: on an unassigned channel it sets STRAY_FRAME, on an assigned one it is written into the record; a
code NONE is followed by the publisher's test where it raised the run of a verified record, and a code that
the engine's state or the record's state shuts out is written and not taken (R34, R36 to R41, R56, R57,
R162). -/
def Obligations.UplinkFramesUpdateLinkAndRecord : Prop :=
  ∀ (ch : Chan) (b0 b1 b2 b3 b4 : Byte) (s : State), s.mode = .running →
    let c : Instr := .uplinkFrame ch b0 b1 b2 b3 b4
    let f := decodeUplink b0 b1 b2 b3
    let rx := (s.link ch).rx
    (crc8 [b0, b1, b2, b3] ≠ b4 → exec c s = exec (.badFrame ch .checksum) s) ∧
    (crc8 [b0, b1, b2, b3] = b4 → rx.lastSeq = some f.seq → ∃ t, exec c s = .next t ∧
      t.link ch = { s.link ch with rx := { rx with
        frame := none, silence := if rx.link = .live then some s.time else rx.silence } } ∧
      s.OtherLinks t ch ∧ (s.Unassigned ch → s.Raises t [.strayFrame]) ∧
      (¬s.Unassigned ch → s.Raises t []) ∧ s.ChangesOnly t [.links, .port]) ∧
    (crc8 [b0, b1, b2, b3] = b4 → rx.lastSeq ≠ some f.seq →
      (s.Unassigned ch → ∃ v t, exec c s = .next t ∧ s.Accepts v ch none f ∧
        v.Raises t [.strayFrame] ∧ v.ChangesOnly t [.port]) ∧
      ∀ p, s.Assigned ch p →
        let tested := s.CleanFrame f ∧ (s.record p).cleanRun.getD 0 < 31 ∧
          ∃ ps, s.publisher.verified = some ps ∧ p ∈ ps
        let taken := (s.record p).state.active = true ∧ s.engine.state ≠ .config ∧
          s.engine.state ≠ .dormant ∧ ¬(s.engine.state = .charging ∧ f.code = .dcUnder)
        (f.code = .none → tested → ∃ v t, exec c s = .next t ∧ s.Accepts v ch (some p) f ∧
          v.PassTests t) ∧
        (f.code = .none → ¬tested → ∃ t, exec c s = .next t ∧ s.Accepts t ch (some p) f) ∧
        (f.code ≠ .none → ¬taken → ∃ t, exec c s = .next t ∧ s.Accepts t ch (some p) f))

/-- A fault code in an accepted frame of an active record, in an engine state that takes it, is taken: the
frame is written, steps 1 to 4 of R59 take the fault, and unless it is judged common cause the engine is
notified (R40, R57, R59, R60, R100). -/
def Obligations.FaultCodesAreTaken : Prop :=
  ∀ (ch : Chan) (b0 b1 b2 b3 b4 : Byte) (p : Pos) (cause : FaultCause) (s : State),
    let f := decodeUplink b0 b1 b2 b3
    s.mode = .running → crc8 [b0, b1, b2, b3] = b4 → (s.link ch).rx.lastSeq ≠ some f.seq →
    s.Assigned ch p → (s.record p).state.active = true → f.code.cause = some cause →
    s.engine.state ≠ .config → s.engine.state ≠ .dormant →
    ¬(s.engine.state = .charging ∧ f.code = .dcUnder) →
    (s.params.tCC = 0 ∨ ((∀ g ∈ s.intake.groups, cause.eligible ≠ some g.code) ∧
      ∀ q ∈ s.intake.provisionals, cause.eligible = some q.code → phaseOf q.pos = phaseOf p)) →
    ∃ v w t, exec (.uplinkFrame ch b0 b1 b2 b3 b4) s = .next t ∧ s.Accepts v ch (some p) f ∧
      v.TakesFault w p cause ∧ w.Notified t

/-- An eligible fault taken while one of its code is open in another phase forms a group, and one taken while a
group of its code is open joins it: each member is restored to its prior state and its CLOSE entry withdrawn,
the engine goes to LOCKOUT with cause COMMON_CAUSE unless it is in LOCKOUT already, and a restored member whose
contact reads CLOSED is then taken as CONTACT_CLOSED, its close completed at once (R64 to R67). That the lockout
comes before the CONTACT_CLOSED of restored members, so that the pass ends as ENDED_BY_LOCKOUT and their notices
do nothing, is the model's reading of R66 step 3 and R67 (DEDUCED, assumption 14). The group's latest
stamp is that of the present fault, where the open faults of its code lie in the past of half a turn of the time
base, as every open window does. -/
def Obligations.CommonCauseRestoresAndLocksOut : Prop :=
  ∀ (ch : Chan) (b0 b1 b2 b3 b4 : Byte) (p : Pos) (cause : FaultCause) (code : Eligible) (s : State),
    let f := decodeUplink b0 b1 b2 b3
    let grouped := ∃ g ∈ s.intake.groups, g.code = code
    s.mode = .running → crc8 [b0, b1, b2, b3] = b4 → (s.link ch).rx.lastSeq ≠ some f.seq →
    s.Assigned ch p → (s.record p).state.active = true → f.code.cause = some cause →
    cause.eligible = some code → s.params.tCC ≠ 0 →
    s.engine.state ≠ .config → s.engine.state ≠ .dormant →
    ¬(s.engine.state = .charging ∧ f.code = .dcUnder) →
    grouped ∨ (∃ q ∈ s.intake.provisionals, q.code = code ∧ phaseOf q.pos ≠ phaseOf p) →
    ∃ v w t, exec (.uplinkFrame ch b0 b1 b2 b3 b4) s = .next t ∧ s.Accepts v ch (some p) f ∧
      v.TakesFault w p cause ∧
      let joining (q : Pos) : Prop :=
        q = p ∨ (¬grouped ∧ ∃ x ∈ s.intake.provisionals, x.code = code ∧ x.pos = q)
      (∀ q prior, joining q → (w.record q).state = .faulted → (w.record q).prior = some prior →
        ((w.record q).contact ≠ .closed ∨ prior.active = false →
          t.record q = { w.record q with state := prior, prior := none }) ∧
        ((w.record q).contact = .closed → prior.active = true →
          t.record q = { w.record q with
            state := if s.params.qLim ≤ min 15 ((w.record q).tally + 1) ∨ (w.record q).probation ≠ none
              then .quarantined else .bypassed
            tally := min 15 ((w.record q).tally + 1), offset := none, cause := some .contactClosed,
            stamp := some s.time, probation := none, prior := none })) ∧
      (∀ q, ¬joining q ∨ (w.record q).state ≠ .faulted ∨ (w.record q).prior = none →
        t.record q = w.record q) ∧
      (∀ e, e ∈ t.matrix.orders ↔ e ∈ w.matrix.orders ∧ ¬(joining e.pos ∧ e.kind = .toClose)) ∧
      t.matrix = { w.matrix with orders := t.matrix.orders } ∧
      (¬grouped → (∃ g, t.intake.groups = s.intake.groups ++ [g] ∧ g.code = code ∧
          (∀ q, q ∈ g.members ↔ joining q) ∧
          ((∀ x ∈ s.intake.provisionals, x.code = code → (s.time - x.stamp).toNat ≤ 2147483647) →
            g.latest = s.time)) ∧
        t.intake.provisionals = s.intake.provisionals.filter fun x => x.code != code) ∧
      (grouped → t.intake.groups = s.intake.groups.map (fun g =>
          if g.code = code then
            { g with members := if p ∈ g.members then g.members else g.members ++ [p], latest := s.time }
          else g) ∧
        t.intake.provisionals = s.intake.provisionals.filter fun x => !(x.pos == p && x.code == code)) ∧
      (s.engine.state ≠ .lockout → t.engine = w.engine.lockedOut .commonCause ∧
        t.publisher = w.publisher.stopped ∧ w.Raises t [.stateChange, .lockedOut]) ∧
      (s.engine.state = .lockout → t.engine = w.engine ∧ t.publisher = w.publisher ∧ t.port = w.port) ∧
      w.ChangesOnly t [.roster, .matrix, .intake, .engine, .publisher, .port]

/-- BAD_FRAME raises the score by 4, up to 63, closes the open frame, and sets the run of an assigned record to
0; a word that interrupted the frame opens the next one. A score that crosses 32 from below on an assigned
channel with its latch clear sets the latch and reports LINK_DEGRADED, which is taken of an active record
from HALTED on (R32, R33, R39, R42, R43, R56, R57). -/
def Obligations.BadFramesCountAndDegrade : Prop :=
  ∀ (ch : Chan) (kind : BadKind) (s : State), s.mode = .running →
    let rx := (s.link ch).rx
    let next : Option OpenFrame := match kind with
      | .interrupted w => some { words := [lineData w], condemned := lineFaulty w }
      | .stray _ => none
      | .condemned => none
      | .checksum => none
    let crosses := rx.score < 32 ∧ 28 ≤ rx.score ∧ rx.degraded = false
    let counted (latch : Bool) (frame : Option OpenFrame) : Link :=
      { s.link ch with rx := { rx with score := min 63 (rx.score + 4), degraded := latch, frame := frame } }
    (s.Unassigned ch → ∃ t, exec (.badFrame ch kind) s = .next t ∧ t.link ch = counted rx.degraded next ∧
      s.OtherLinks t ch ∧ s.ChangesOnly t [.links]) ∧
    ∀ p, s.Assigned ch p →
      let taken := crosses ∧ (s.record p).state.active = true ∧ s.engine.state ≠ .config ∧
        s.engine.state ≠ .dormant ∧ s.engine.state ≠ .charging
      (¬taken → ∃ t, exec (.badFrame ch kind) s = .next t ∧
        (crosses → t.link ch = counted true next) ∧ (¬crosses → t.link ch = counted rx.degraded next) ∧
        t.record p = { s.record p with cleanRun := some 0 } ∧ s.OtherRecords t p ∧
        s.OtherLinks t ch ∧ s.ChangesOnly t [.links, .roster]) ∧
      (taken → ∃ v w u t, exec (.badFrame ch kind) s = .next t ∧ v.link ch = counted true none ∧
        v.record p = { s.record p with cleanRun := some 0 } ∧ s.OtherRecords v p ∧
        s.OtherLinks v ch ∧ s.ChangesOnly v [.links, .roster] ∧
        v.TakesFault w p .linkDegraded ∧ w.Notified u ∧
        t.link ch = counted true next ∧ u.OtherLinks t ch ∧ u.ChangesOnly t [.links])

/-- UPLINK_WORD: with no frame open, a marker word opens one, a continuation word is a bad frame, and the five
words of a frame, none faulty, are that frame; a marker word in an open frame closes it as a bad frame and
opens the next; a faulty word condemns the frame it stands in (R31 to R33). -/
def Obligations.UplinkWordsMakeFrames : Prop :=
  ∀ (ch : Chan) (s : State), s.mode = .running →
    (∀ w, w.getLsbD 9 = true → (s.link ch).rx.frame.isSome →
      exec (.uplinkWord ch w) s = exec (.badFrame ch (.interrupted w)) s) ∧
    ((s.link ch).rx.frame = none →
      (∀ w, w.getLsbD 9 = true → exec (.uplinkWord ch w) s = .next (s.setRx ch { (s.link ch).rx with
        frame := some { words := [lineData w], condemned := lineFaulty w } })) ∧
      (∀ w, w.getLsbD 9 = false → exec (.uplinkWord ch w) s = exec (.badFrame ch (.stray w)) s) ∧
      (∀ (b0 b1 b2 b3 b4 : Byte) (t : State),
        s.Runs [.uplinkWord ch (lineWord b0 true), .uplinkWord ch (lineWord b1 false),
            .uplinkWord ch (lineWord b2 false), .uplinkWord ch (lineWord b3 false),
            .uplinkWord ch (lineWord b4 false)] t ↔
          exec (.uplinkFrame ch b0 b1 b2 b3 b4) s = .next t)) ∧
    ∀ frame w, (s.link ch).rx.frame = some frame → w.getLsbD 9 = false →
      (frame.words.length < 4 → exec (.uplinkWord ch w) s = .next (s.setRx ch { (s.link ch).rx with
        frame := some { words := frame.words ++ [lineData w]
                        condemned := frame.condemned || lineFaulty w } })) ∧
      (frame.words.length = 4 → (frame.condemned || lineFaulty w) = true →
        exec (.uplinkWord ch w) s = exec (.badFrame ch .condemned) s)

/-- SILENCE_DETECTED, when the silence timer of a LIVE receiver has reached tSIL: the receiver is SILENT with
its frame and timer dropped and its other fields kept; on an assigned channel the record's run is 0 and
LINK_LOST is reported, which is taken of an active record from HALTED on (R44, R56, R57). -/
def Obligations.SilenceIsDetected : Prop :=
  ∀ (ch : Chan) (since : Stamp) (s : State), s.mode = .running → (s.link ch).rx.link = .live →
    (s.link ch).rx.silence = some since → s.params.tSIL ≤ (s.time - since).toNat →
    let silent : Link := { s.link ch with rx := { (s.link ch).rx with
      link := .silent, silence := none, frame := none } }
    (s.Unassigned ch → ∃ t, exec (.silenceDetected ch) s = .next t ∧ t.link ch = silent ∧
      s.OtherLinks t ch ∧ s.ChangesOnly t [.links]) ∧
    ∀ p, s.Assigned ch p →
      let taken := (s.record p).state.active = true ∧ s.engine.state ≠ .config ∧
        s.engine.state ≠ .dormant ∧ s.engine.state ≠ .charging
      ∃ v t, exec (.silenceDetected ch) s = .next t ∧ v.link ch = silent ∧ s.OtherLinks v ch ∧
        v.record p = { s.record p with cleanRun := some 0 } ∧ s.OtherRecords v p ∧
        s.ChangesOnly v [.links, .roster] ∧ (¬taken → t = v) ∧
        (taken → ∃ w, v.TakesFault w p .linkLost ∧ w.Notified t)

/-- DOWNLINK_BOUNDARY, 50 µs after the last: every assigned channel begins one frame with its sequence, its
fault-reset latch and the gate permit, and its sequence goes on by 1; an unassigned channel's line stays idle;
no receiver changes. The permit is given exactly to a position that holds an offset while the engine is
PROVING or RUNNING. The frame is two words back to back on DTX, the second its CRC-8, and the line is high
otherwise (R47, R48, R201). That the sequence goes on at the boundary, not after word 0, is the model's choice
(assumption 8). -/
def Obligations.DownlinkBoundarySendsFrames : Prop :=
  ∀ s : State, s.mode = .running → 50 ≤ (s.time - s.downlinkSince).toNat →
    ∃ t, exec .downlinkBoundary s = .next t ∧ t.downlinkSince = s.downlinkSince + 50 ∧
      s.ChangesOnly t [.links, .downlinkSince] ∧
      ∀ ch, (t.link ch).rx = (s.link ch).rx ∧
        (t.link ch).tx.faultReset = (s.link ch).tx.faultReset ∧
        (s.Unassigned ch → (t.link ch).tx.sent = none ∧ (t.link ch).tx.seq = (s.link ch).tx.seq ∧
          ∀ k, t.dtx ch k = true) ∧
        ∀ p, s.Assigned ch p → ∃ data, (t.link ch).tx.sent = some data ∧
          (t.link ch).tx.seq = (s.link ch).tx.seq + 1 ∧
          data.extractLsb' 0 4 = (s.link ch).tx.seq ∧
          (data.getLsbD 4 = true ↔ (s.record p).offset.isSome ∧
            (s.engine.state = .proving ∨ s.engine.state = .running)) ∧
          data.getLsbD 5 = (s.link ch).tx.faultReset ∧ data.getLsbD 6 = false ∧ data.getLsbD 7 = false ∧
          (∀ k < 12, t.dtx ch k = (lineWord data true).getLsbD k ∧
            t.dtx ch (12 + k) = (lineWord (crc8 [data]) false).getLsbD k) ∧
          ∀ k, 24 ≤ k → t.dtx ch k = true

/-! ## Fault intake and switch matrix -/

/-- WINDOW_EXPIRY of a provisional fault whose window has run tCC makes it ordinary: no longer open, its CLOSE
entry no longer held, the prior state gone, the record still FAULTED. Windows of one code that have run expire
in stamp order, in position order where the stamps are equal. GROUP_CLOSE of a group that has run tCC
from its latest stamp discards it and changes no record (R7, R53, R63, R65). That WINDOW_EXPIRY changes nothing
when given out of that turn, before its window has run, or with no window open is the model's reading
(DEDUCED, assumption 5), and that windows of one code take turns as R53 orders them while other events that meet
do not is told in assumption 3. -/
def Obligations.WindowsAndGroupsEnd : Prop :=
  ∀ s : State, s.mode = .running →
    (∀ (p : Pos) (x : Provisional), x ∈ s.intake.provisionals → x.pos = p →
      s.params.tCC ≤ (s.time - x.stamp).toNat →
      (∀ y ∈ s.intake.provisionals, y.code = x.code → s.params.tCC ≤ (s.time - y.stamp).toNat →
        before y.stamp y.pos x.stamp x.pos = false) →
      ∃ t, exec (.windowExpiry p) s = .next t ∧
        t.intake = { s.intake with provisionals := s.intake.provisionals.filter fun y => y.pos != p } ∧
        t.matrix = { s.matrix with orders := s.matrix.orders.map fun e =>
          if e.pos = p ∧ e.kind = .toClose then { e with hold := false } else e } ∧
        ((s.record p).state = .faulted → t.record p = { s.record p with prior := none }) ∧
        ((s.record p).state ≠ .faulted → t.record p = s.record p) ∧
        s.OtherRecords t p ∧ s.ChangesOnly t [.intake, .matrix, .roster]) ∧
    (∀ p : Pos, (∀ x ∈ s.intake.provisionals, x.pos = p → s.params.tCC ≤ (s.time - x.stamp).toNat →
        ∃ y ∈ s.intake.provisionals, y.code = x.code ∧ s.params.tCC ≤ (s.time - y.stamp).toNat ∧
          before y.stamp y.pos x.stamp x.pos = true) →
      exec (.windowExpiry p) s = .next s) ∧
    (∀ (g : Group) (l l' : List Group), s.intake.groups = l ++ g :: l' → (∀ x ∈ l, x.code ≠ g.code) →
      s.params.tCC ≤ (s.time - g.latest).toNat →
      exec (.groupClose g.code) s = .next (s.setIntake { s.intake with
        groups := s.intake.groups.filter fun x => x.code != g.code }))

/-- SCAN_DWELL_END, a millisecond after the dwell began, reads the three positions of the pointer's rank and
moves to the next rank. The third agreeing read of a new value settles it, and in CONFIG an IN_SERVICE record
follows a CLOSED contact to BYPASSED or QUARANTINED and a BYPASSED record an OPEN one to IN_SERVICE
(R18, R70 to R72). Outside CONFIG, where the unit may be busy, it is stated for reads that settle
nothing. -/
def Obligations.ScanReadsOneRankAndConfigFollows : Prop :=
  ∀ (a b c : Bool) (since : Stamp) (s : State), s.mode = .running → s.matrix.dwell = some since →
    1000 ≤ (s.time - since).toNat →
    let rank := s.matrix.pointer
    let sense (q : Fin 3) : Bool := if q = 0 then a else if q = 1 then b else c
    ((s.engine.state = .config ∧ s.matrix.unit = .idle) ∨
      ∀ q, ¬s.Settles (posAt q rank) (sense q)) →
    ∃ t, exec (.scanDwellEnd a b c) s = .next t ∧ t.sense = { a := a, b := b, c := c } ∧
      t.matrix = { s.matrix with
        pointer := rank + 1, dwell := some s.time, debounce := t.matrix.debounce } ∧
      (∀ q, t.matrix.debounce[posAt q rank] = s.matrix.debounce[posAt q rank].afterRead (sense q)) ∧
      (∀ p : Pos, p.val % 10 ≠ rank.val → t.matrix.debounce[p] = s.matrix.debounce[p] ∧
        t.record p = s.record p) ∧
      (∀ q, ¬s.Settles (posAt q rank) (sense q) →
        t.record (posAt q rank) = s.record (posAt q rank)) ∧
      (∀ q, s.Settles (posAt q rank) (sense q) → ∀ r, s.record (posAt q rank) = r →
        t.record (posAt q rank) = { r with
          contact := if sense q then .closed else .opened
          state :=
            if r.state = .inService ∧ sense q = true then
              (if s.params.qLim ≤ r.tally then .quarantined else .bypassed)
            else if r.state = .bypassed ∧ sense q = false then .inService
            else r.state }) ∧
      s.ChangesOnly t [.sense, .matrix, .roster]

/-- SCAN_DWELL_END outside CONFIG, a millisecond after the dwell began: the three positions of the pointer's rank
are read one after another in position order A, B, C, each by the state the one before it left; then the pointer
moves to the next rank and the next dwell begins. Each read is State.Reads: the debounce state takes it, and a
change that it settles confirms the pulse the unit is SETTLING on within tBC when it is that pulse's target, and
else is judged as a surprise: a CLOSED contact of an active record is CONTACT_CLOSED with its close completed and
the fault notice sent, an OPEN one of a BYPASSED or QUARANTINED record CONTACT_OPEN, listed only if BYPASSED, its
notice sent in PUBLISHING, VERIFYING, PROVING and RUNNING alone; any other is no surprise (R6, R10, R13, R49, R58,
R60, R71, R72, R84, R86, R100, R105). A pulse confirmed is stated of the record it stands for: CLOSING for CLOSE,
OPENING for OPEN. The model's reading: that reads of one dwell are taken in position order (DEDUCED, assumption
17), and that a change at the deadline tBC itself still confirms (DEDUCED, assumption 20). -/
def Obligations.SettledChangesConfirmOrSurprise : Prop :=
  ∀ (a b c : Bool) (since : Stamp) (s : State), s.mode = .running → s.matrix.dwell = some since →
    1000 ≤ (s.time - since).toNat → s.engine.state ≠ .config →
    let rank := s.matrix.pointer
    ∃ u v w t : State, (s.setSense { a := a, b := b, c := c }).Reads u (posAt 0 rank) a ∧
      u.Reads v (posAt 1 rank) b ∧ v.Reads w (posAt 2 rank) c ∧
      t = w.setMatrix { w.matrix with pointer := rank + 1, dwell := some s.time } ∧
      exec (.scanDwellEnd a b c) s = .next t

/-- HOLD_OFF_EXPIRY lets the marked CLOSE entry whose stamp lies tHO back be eligible; PULSE_END after tFW
releases the lines, resumes the scan with a full dwell and starts the confirmation; RECOVERY_END after tREC
frees a unit whose confirmation has concluded, and is noted while one runs (R79, R80, R83). -/
def Obligations.MatrixTimersRun : Prop :=
  ∀ s : State, s.mode = .running →
    (∀ e ∈ s.matrix.orders, e.kind = .toClose → e.holdOff = true → e.holdOffRun = false →
      1000 * s.params.tHO ≤ (s.time - e.stamp).toNat →
      exec (.holdOffExpiry e.pos) s = .next (s.setMatrix { s.matrix with
        orders := s.matrix.orders.map fun x =>
          if x.pos = e.pos ∧ x.kind = .toClose then { x with holdOffRun := true } else x })) ∧
    (∀ p kind since, s.matrix.unit = .firing p kind since →
      1000 * s.params.tFW ≤ (s.time - since).toNat → ∃ t, exec .pulseEnd s = .next t ∧
        t = s.setMatrix { s.matrix with unit := .settling p kind s.time false, dwell := some s.time } ∧
        s.fireLine = some (kind, p.val / 10) ∧ s.rankSelect = some (p.val % 10 + 1) ∧
        t.fireLine = none ∧ t.rankSelect = some (s.matrix.pointer.val + 1)) ∧
    (∀ p kind ended, s.matrix.unit = .settling p kind ended false →
      1000 * s.params.tREC ≤ (s.time - ended).toNat →
      exec .recoveryEnd s = .next (s.setMatrix { s.matrix with unit := .settling p kind ended true })) ∧
    (∀ ended, s.matrix.unit = .recovering ended → 1000 * s.params.tREC ≤ (s.time - ended).toNat →
      exec .recoveryEnd s = .next (s.setMatrix { s.matrix with unit := .idle }))

/-- No CLOSE pulse for an eligible cause starts earlier than tHO after the fault's stamp, over every command: a
CLOSE entry that the command lists carries its record's stamp, and the hold-off mark exactly for DC_OVER,
DC_UNDER and OVERTEMP, but for one relisted by CLEAR_LOCKOUT after a pulse that failed; its hold-off runs out by
HOLD_OFF_EXPIRY alone, tHO after its stamp; and a CLOSE pulse starts by ENTRY_GRANT alone, of an entry that is
not held and whose hold-off, if it has one, has run (R76, R79, R81, R83). -/
def Obligations.ClosePulsesObserveTheHoldOff : Prop :=
  ∀ (c : Instr) (s t : State), s.Switched → exec c s = .next t →
    (∀ e ∈ t.matrix.orders, e.kind = .toClose →
      (∃ x ∈ s.matrix.orders, x.pos = e.pos ∧ x.kind = .toClose ∧ x.stamp = e.stamp ∧
        x.holdOff = e.holdOff) ∨
      ((t.record e.pos).stamp = some e.stamp ∧
        (e.holdOff = true ↔ ∃ cause, (t.record e.pos).cause = some cause ∧
          (cause = .dcOver ∨ cause = .dcUnder ∨ cause = .overtemp))) ∨
      ((∃ tag, Instr.carried c = .clearLockout tag) ∧ (s.record e.pos).closeFailed = true ∧
        e.holdOff = false)) ∧
    (∀ e ∈ t.matrix.orders, e.kind = .toClose → e.holdOffRun = true →
      (∃ x ∈ s.matrix.orders, x.pos = e.pos ∧ x.kind = .toClose ∧ x.stamp = e.stamp ∧
        x.holdOffRun = true) ∨
      (c = .holdOffExpiry e.pos ∧ 1000 * s.params.tHO ≤ (s.time - e.stamp).toNat)) ∧
    ∀ p since, t.matrix.unit = .firing p .toClose since → s.matrix.unit ≠ t.matrix.unit →
      c = .entryGrant ∧ since = s.time ∧ ∃ e ∈ s.matrix.orders, e.pos = p ∧ e.kind = .toClose ∧
        e.hold = false ∧ (e.holdOff = true → e.holdOffRun = true)

/-- ENTRY_GRANT, with the unit IDLE, takes the oldest eligible entry from the list: a CLOSE entry whose hold is
clear and whose hold-off, if it has one, has run, or an OPEN entry while the engine is DORMANT. A contact
already at its target completes without a pulse, and else a pulse starts (R9, R10, R13, R49, R79, R81 to R83,
R105). Stated of the records an entry stands for: FAULTED for CLOSE, OPENING for OPEN. -/
def Obligations.GrantTakesTheOldestEligibleEntry : Prop :=
  ∀ (s : State) (older younger : List Entry) (e : Entry), s.mode = .running → s.matrix.unit = .idle →
    s.matrix.orders = older ++ e :: younger →
    let eligible (x : Entry) : Prop :=
      (x.kind = .toClose ∧ x.hold = false ∧ (x.holdOff = false ∨ x.holdOffRun = true)) ∨
        (x.kind = .toOpen ∧ s.engine.state = .dormant)
    eligible e → (∀ x ∈ older, ¬eligible x) →
    let r := s.record e.pos
    let rest := s.matrix.orders.filter fun x => !(x.pos == e.pos && x.kind == e.kind)
    ∃ t, exec .entryGrant s = .next t ∧
      (e.kind = .toClose → r.state = .faulted → r.contact ≠ .closed →
        t.record e.pos = { r with state := .closing, prior := none } ∧ s.OtherRecords t e.pos ∧
        t.matrix = { s.matrix with
          orders := rest, unit := .firing e.pos .toClose s.time, dwell := none } ∧
        s.ChangesOnly t [.matrix, .roster]) ∧
      (e.kind = .toOpen → r.contact ≠ .opened →
        t = s.setMatrix { s.matrix with
          orders := rest, unit := .firing e.pos .toOpen s.time, dwell := none }) ∧
      (e.kind = .toClose → r.state = .faulted → r.contact = .closed → ∃ u : State,
        u.record e.pos = { r with
          state := if s.params.qLim ≤ min 15 (r.tally + 1) ∨ r.probation ≠ none then .quarantined
            else .bypassed
          tally := min 15 (r.tally + 1), probation := none, prior := none } ∧
        s.OtherRecords u e.pos ∧ u.matrix = { s.matrix with orders := rest } ∧
        s.Raises u [.switchDone] ∧ s.ChangesOnly u [.matrix, .roster, .port] ∧ u.ExitTests t) ∧
      (e.kind = .toOpen → r.state = .opening → r.contact = .opened →
        t.record e.pos = { r with state := .probation, probation := some s.params.tPROB } ∧
        s.OtherRecords t e.pos ∧ t.matrix = { s.matrix with orders := rest } ∧
        (∀ ch, r.channel = some ch →
          t.link ch = { s.link ch with tx := { (s.link ch).tx with faultReset := true } }) ∧
        (∀ ch, r.channel ≠ some ch → t.link ch = s.link ch) ∧
        s.Raises t [.switchDone] ∧ s.ChangesOnly t [.matrix, .roster, .links, .port])

/-- CLOSE_TIMEOUT, tBC after the pulse's end: the CLOSING record is FAULTED with the close-failed mark,
SWITCH_FAIL is set, and the engine, unless locked out already, goes to LOCKOUT with cause SWITCH_FAIL; from
DORMANT the waiting OPEN entries are withdrawn with it, FAULT_TAKEN set exactly when a withdrawn record's contact
reads OPEN. OPEN_TIMEOUT: the OPENING record is BYPASSED again, SWITCH_FAIL is set, and the engine is unaffected. Either
way the unit is freed, or recovers (R11, R14, R78, R80, R85, R87, R113). -/
def Obligations.UnconfirmedPulsesTimeOut : Prop :=
  ∀ (s : State) (p : Pos) (ended : Stamp) (recovered : Bool), s.mode = .running →
    1000 * s.params.tBC ≤ (s.time - ended).toNat →
    let freed : FiringUnit := if recovered = true then .idle else .recovering ended
    (s.matrix.unit = .settling p .toClose ended recovered → (s.record p).state = .closing →
      ∃ u t, exec .closeTimeout s = .next t ∧
        u.record p = { s.record p with state := .faulted, closeFailed := true } ∧
        s.OtherRecords u p ∧ u.matrix = { s.matrix with unit := freed } ∧
        s.Raises u [.switchFail] ∧ s.ChangesOnly u [.roster, .matrix, .port] ∧
        (s.engine.state = .lockout → t = u) ∧
        (s.engine.state ≠ .lockout → s.engine.state ≠ .dormant → u.LocksOut t .switchFail) ∧
        (s.engine.state = .dormant → u.LocksOutOfDormant t .switchFail)) ∧
    (s.matrix.unit = .settling p .toOpen ended recovered → (s.record p).state = .opening →
      ∃ t, exec .openTimeout s = .next t ∧
        t.record p = { s.record p with state := .bypassed } ∧ s.OtherRecords t p ∧
        t.matrix = { s.matrix with unit := freed } ∧ s.Raises t [.switchFail] ∧
        s.ChangesOnly t [.roster, .matrix, .port])

/-! ## Winder lines and the engine -/

/-- The edges of the winder lines, which settle the line's level: ENERGIZED falling abandons the pass and goes
to DORMANT but in CONFIG, LOCKOUT and DORMANT; ESTOP_N falling locks out but in CONFIG and LOCKOUT; BRAKE_SET
rising in HALTED goes to BYPASSING with a RESTART pass to come; BRAKE_SET falling is no event, nor is any of
them in another state (R90, R95, R96, R99, R103, R204). Edges that leave DORMANT have a statement of their own.
That an edge command settles its line and acts whatever level stood is the model's reading (DEDUCED,
assumption 10). -/
def Obligations.WinderEdgesMoveTheEngine : Prop :=
  ∀ s : State, s.mode = .running →
    let settled (level : Bool) : Line := { pin := level, qualified := some level, sample := level, count := 5 }
    let st := s.engine.state
    (∃ t u, exec .energizedFalling s = .next t ∧
      u = s.setLines { s.lines with energized := settled false } ∧
      (st = .config ∨ st = .lockout ∨ st = .dormant → t = u) ∧
      (st ≠ .config → st ≠ .lockout → st ≠ .dormant →
        t.engine = (s.engine.passEnded .abandoned).enter .dormant ∧ u.Raises t [.stateChange] ∧
        t.publisher = s.publisher.stopped ∧ u.ChangesOnly t [.engine, .publisher, .port])) ∧
    (∃ t u, exec .estopNFalling s = .next t ∧
      u = s.setLines { s.lines with estopN := settled false } ∧
      (st = .config ∨ st = .lockout → t = u) ∧
      (st ≠ .config → st ≠ .lockout → st ≠ .dormant → u.LocksOut t .estop)) ∧
    (∃ t u, exec .brakeSetRising s = .next t ∧
      u = s.setLines { s.lines with brakeSet := settled true } ∧ (st ≠ .halted → t = u) ∧
      (st = .halted → ∃ v : State,
        v.engine = { s.engine.enter .bypassing with passToCome := some .restart } ∧
        v.publisher = s.publisher.stopped ∧ u.Raises v [.stateChange] ∧
        u.ChangesOnly v [.engine, .publisher, .port] ∧ v.ExitTests t)) ∧
    exec .brakeSetFalling s = .next (s.setLines { s.lines with brakeSet := settled false }) ∧
    (st ≠ .dormant →
      exec .energizedRising s = .next (s.setLines { s.lines with energized := settled true }))

/-- Leaving DORMANT, by ENERGIZED rising to CHARGING with the grace timer started or by ESTOP_N falling to
LOCKOUT with cause ESTOP, withdraws every waiting OPEN entry; of the port the flags STATE_CHANGE, and LOCKED_OUT
with the latter, are set, and FAULT_TAKEN exactly when a withdrawn record's contact reads OPEN, and nothing else
of it changes (R14, R78, R93, R95, R96, R113, R204). That an edge command settles its line and acts whatever level
stood is the model's reading (DEDUCED, assumption 10). -/
def Obligations.LeavingDormantWithdrawsOpens : Prop :=
  ∀ s : State, s.mode = .running → s.engine.state = .dormant →
    let settled (level : Bool) : Line := { pin := level, qualified := some level, sample := level, count := 5 }
    (∃ t, exec .energizedRising s = .next t ∧
      t.engine = { s.engine.enter .charging with grace := some s.time } ∧
      t.lines = { s.lines with energized := settled true } ∧ t.publisher = s.publisher.stopped ∧
      s.Withdraws t [.stateChange] ∧
      s.ChangesOnly t [.lines, .engine, .publisher, .port, .roster, .matrix]) ∧
    ∃ t u, exec .estopNFalling s = .next t ∧ u = s.setLines { s.lines with estopN := settled false } ∧
      u.LocksOutOfDormant t .estop

/-- GRACE_EXPIRY, CHARGING at tWAKE: with a record FAULTED without the close-failed mark or CLOSING the engine
goes to BYPASSING with a COLD pass to come, and else the rebalance of a COLD pass with attempt index 0 runs at
once. PROVEN_RISING in PROVING takes a RESTART pass to RUNNING with the clean-run countdown at tCLEAN and
RESTARTED set, and is no event elsewhere; PROVING_DEADLINE_EXPIRY ends the pass as ENDED_BY_PROVE_TIMEOUT with
attempt accounting. Two waits end in LOCKOUT: BRAKE_WAIT_EXPIRY, the brake wait at tBRK with BRAKE_SET still
low, with cause BRAKE_TIMEOUT, and ADOPTION_DEADLINE_EXPIRY, PUBLISHING at tADOPT, with cause MODULATOR
(R98, R104, R106, R107, R109 to R111, R113, R159, R204). That PROVEN_RISING settles its line and acts whatever
level stood is the model's reading (DEDUCED, assumption 10). -/
def Obligations.WaitsEndByEventOrDeadline : Prop :=
  (∀ (s : State) (since : Stamp), s.mode = .running → s.engine.state = .charging →
    s.engine.grace = some since → 100000 * s.params.tWAKE ≤ (s.time - since).toNat →
    let holding := ∃ p, ((s.record p).state = .faulted ∧ (s.record p).closeFailed = false) ∨
      (s.record p).state = .closing
    ∃ t, exec .graceExpiry s = .next t ∧
      (holding → t.engine = { s.engine.enter .bypassing with passToCome := some .cold } ∧
        t.publisher = s.publisher.stopped ∧ s.Raises t [.stateChange] ∧
        s.ChangesOnly t [.engine, .publisher, .port]) ∧
      (¬holding → s.Rebalances t .cold 0)) ∧
  ∀ s : State, s.mode = .running →
    (∃ t u, exec .provenRising s = .next t ∧
      u = s.setLines { s.lines with
        proven := { pin := true, qualified := some true, sample := true, count := 5 } } ∧
      (s.engine.state ≠ .proving → t = u) ∧
      (∀ pass, s.engine.state = .proving → s.engine.pass = some pass → pass.kind = .restart →
        t.engine = { s.engine.enter .running with
          pass := some { pass with outcome := some .completeRestart }
          cleanRun := some { remaining := s.params.tCLEAN, accrual := 0 } } ∧
        u.Raises t [.stateChange, .restarted] ∧ t.publisher = s.publisher.stopped ∧
        u.ChangesOnly t [.engine, .publisher, .port])) ∧
    (∀ since, s.engine.state = .proving → s.engine.proving = some since →
      1000000 * s.params.tPRV ≤ (s.time - since).toNat →
      ∃ t, exec .provingDeadlineExpiry s = .next t ∧ s.Accounts t .endedByProveTimeout) ∧
    (∀ since, s.engine.state = .halted → s.engine.brakeWait = some since → s.lines.brakeSet.level = false →
      1000 * s.params.tBRK ≤ (s.time - since).toNat →
      ∃ t, exec .brakeWaitExpiry s = .next t ∧ s.LocksOut t .brakeTimeout) ∧
    (∀ since, s.engine.state = .publishing → s.publisher.adoptDeadline = some since →
      1000 * s.params.tADOPT ≤ (s.time - since).toNat →
      ∃ t, exec .adoptionDeadlineExpiry s = .next t ∧ s.LocksOut t .modulator)

/-- Running time: a second of the clean run lowers its countdown and keeps the rest of its accrual, and at 0
the attempt count is 0 and the countdown gone; a second at the roster lowers every PROBATION record's
remaining probation, and at 0 the record becomes IN_SERVICE (R16, R17, R112). R17 and R112 make the ends in the
event that reaches 0; that the model makes them as steps of their own, so that a probation and a countdown may
stand at 0 until then, is its choice (assumptions 4 and 23). -/
def Obligations.RunningTimeCounts : Prop :=
  ∀ s : State, s.mode = .running →
    (∀ n k, s.engine.cleanRun = some { remaining := n, accrual := k } → 1000000 ≤ k →
      exec .cleanRunSecond s = .next (s.setEngine { s.engine with
        cleanRun := some { remaining := n - 1, accrual := k - 1000000 } })) ∧
    (∀ k, s.engine.cleanRun = some { remaining := 0, accrual := k } →
      exec .cleanRunEnd s = .next (s.setEngine { s.engine with attempts := 0, cleanRun := none })) ∧
    (1000000 ≤ s.accrual → ∃ t, exec .runningTimeSecond s = .next t ∧
      t.accrual = s.accrual - 1000000 ∧
      (∀ p n, (s.record p).state = .probation → (s.record p).probation = some n →
        t.record p = { s.record p with probation := some (n - 1) }) ∧
      (∀ p, (s.record p).state ≠ .probation → t.record p = s.record p) ∧
      s.ChangesOnly t [.accrual, .roster]) ∧
    (∀ p, (s.record p).state = .probation → (s.record p).probation = some 0 →
      exec (.probationComplete p) s =
        .next (s.setRecord p { s.record p with state := .inService, probation := none }))

/-! ## Publisher -/

/-- A set frame of n pairs has 20 + 3 n words: the header, the generation, the result record's fields, for each
phase a count and its pairs, and the CRC-16 of every word before it; the pairs of a phase are rank and carrier
offset of each record of the phase that holds one, in ascending rank (R153, R201, R203). MTX carries the words of
the frame being sent in one unbroken run and is high otherwise (R152, R201). SET_FRAME_SENT, when the last word
has been sent: a queued frame starts; with none queued the transmitter is IDLE and in PUBLISHING the frame-sent
mark is set (R155). The duration in whole microseconds, half a microsecond a word, is the model's
(assumption 7). -/
def Obligations.SetFramesAreSentInTurn : Prop :=
  (∀ (generation : BitVec 16) (r : Result) (pairsA pairsB pairsC : List (Nat × Nat)),
    let frame := setFrame generation r pairsA pairsB pairsC
    let phase (l : List (Nat × Nat)) : List Byte :=
      byteOf l.length :: (l.map fun x => [byteOf x.1, byteOf (x.2 / 256), byteOf x.2]).flatten
    frame.length = 20 + 3 * (pairsA.length + pairsB.length + pairsC.length) ∧
    ∃ words, frame = words ++ bytes2 (crc16 words).toNat ∧
      words = [0xA5] ++ bytes2 generation.toNat ++ [byteOf r.kind.code] ++ bytes2 r.ratio
        ++ bytes2 r.speed ++ bytes2 r.ramp ++ [byteOf r.proving] ++ bytes2 r.phiB ++ bytes2 r.phiC
        ++ phase pairsA ++ phase pairsB ++ phase pairsC) ∧
  (∀ (s : State) (q : Nat),
    (s.pairs q).Pairwise (fun x y => x.1 < y.1) ∧
    ∀ rank offset, (rank, offset) ∈ s.pairs q ↔
      ∃ p : Pos, p.val / 10 = q ∧ p.val % 10 + 1 = rank ∧ (s.record p).offset = some offset) ∧
  (∀ s : State,
    (s.publisher.sending = none → ∀ k, s.mtx k = true) ∧
    ∀ f, s.publisher.sending = some f →
      (∀ i b, f.frame[i]? = some b → ∀ k < 10, s.mtx (10 * i + k) = (modWord b).getLsbD k) ∧
      ∀ k, 10 * f.frame.length ≤ k → s.mtx k = true) ∧
  ∀ (s : State) (f : Sending), s.mode = .running → s.publisher.sending = some f →
    f.frame.length / 2 ≤ (s.time - f.since).toNat →
    (∀ q, s.publisher.queued = some q → exec .setFrameSent s = .next (s.setPublisher { s.publisher with
      sending := some { frame := q, since := s.time }, queued := none })) ∧
    (s.publisher.queued = none → s.engine.state = .publishing → exec .setFrameSent s =
      .next (s.setPublisher { s.publisher with sending := none, frameSent := some true })) ∧
    (s.publisher.queued = none → s.engine.state ≠ .publishing → exec .setFrameSent s =
      .next (s.setPublisher { s.publisher with sending := none }))

/-- ADOPTION_FRAME in PUBLISHING with the published generation and the frame-sent mark set is accepted: the
adopted generation becomes the published one and the engine enters VERIFYING with the verified set formed, its
runs at 0 and both timers started; any other valid frame is ignored (R108, R158, R161, R162). A verified set
is never empty: with an empty one and tVMIN 0 the pass would complete at once. -/
def Obligations.AdoptionEntersVerifying : Prop :=
  ∀ (g : BitVec 16) (s : State), s.mode = .running →
    let accepted := s.engine.state = .publishing ∧ g = s.publisher.published ∧
      s.publisher.frameSent = some true
    let verifiable (p : Pos) : Prop := (s.record p).state = .parked ∨
      (((s.record p).state = .inService ∨ (s.record p).state = .probation) ∧ (s.record p).offset ≠ none)
    (¬accepted → exec (.adoptionFrame g) s =
      .next (s.setPublisher { s.publisher with receiver := none })) ∧
    (accepted → (s.params.tVMIN ≠ 0 ∨ ∃ p, verifiable p) →
      ∃ (t : State) (ps : List Pos), exec (.adoptionFrame g) s = .next t ∧
        (∀ p, p ∈ ps ↔ verifiable p) ∧ ps.Pairwise (· < ·) ∧
        t.engine = s.engine.enter .verifying ∧
        t.publisher = { s.publisher.stopped with
          adopted := s.publisher.published, receiver := none, verified := some ps
          minTimer := some s.time, minElapsed := decide (s.params.tVMIN = 0)
          verDeadline := some s.time } ∧
        (∀ p, verifiable p → t.record p = { s.record p with cleanRun := some 0 }) ∧
        (∀ p, ¬verifiable p → t.record p = s.record p) ∧
        s.Raises t [.stateChange] ∧ s.ChangesOnly t [.roster, .engine, .publisher, .port])

/-- ADOPTION_WORD: a header word, 0x5A after an idle word time, opens a frame and discards a partial one; a
word with no frame open is discarded; the words are held until the fifth, which closes the frame: five words
with a right CRC-16 are the ADOPTION_FRAME of their generation, and with a wrong one they are discarded
(R156, R201, R203). -/
def Obligations.AdoptionWordsMakeFrames : Prop :=
  ∀ (w : BitVec 10) (data : Byte) (afterIdle : Bool) (s : State), s.mode = .running →
    (∀ i < 8, data.getLsbD i = w.getLsbD (i + 1)) →
    let c : Instr := .adoptionWord w afterIdle
    let header := afterIdle = true ∧ data = 0x5A
    let held (l : Option (List Byte)) : State := s.setPublisher { s.publisher with receiver := l }
    (header → exec c s = .next (held (some [data]))) ∧
    (¬header → s.publisher.receiver = none → exec c s = .next s) ∧
    (¬header → ∀ l, s.publisher.receiver = some l → l.length < 4 →
      exec c s = .next (held (some (l ++ [data])))) ∧
    (¬header → ∀ w0 w1 w2 w3 : Byte, s.publisher.receiver = some [w0, w1, w2, w3] →
      (bytes2 (crc16 [w0, w1, w2]).toNat = [w3, data] →
        exec c s = exec (.adoptionFrame (w1 ++ w2)) s) ∧
      (bytes2 (crc16 [w0, w1, w2]).toNat ≠ [w3, data] → exec c s = .next (held none)))

/-- MINIMUM_TIMER_EXPIRY, VERIFYING at tVMIN: the elapsed mark is set and the pass condition is tested.
VERIFICATION_DEADLINE_EXPIRY, VERIFYING at tVER: with no record short verification passes; else every short
record is taken as VERIFY_FAIL without a notice, and the pass ends as ENDED_BY_VERIFY with attempt accounting
(R61, R162 to R164). -/
def Obligations.VerificationTimersDecideThePass : Prop :=
  ∀ (s : State) (since : Stamp), s.mode = .running → s.engine.state = .verifying →
    (s.publisher.minElapsed = false → s.publisher.minTimer = some since →
      1000 * s.params.tVMIN ≤ (s.time - since).toNat →
      ∃ t, exec .minimumTimerExpiry s = .next t ∧
        (s.setPublisher { s.publisher with minElapsed := true }).PassTests t) ∧
    ∀ ps, s.publisher.verified = some ps → s.publisher.verDeadline = some since →
      1000 * s.params.tVER ≤ (s.time - since).toNat →
      let short (p : Pos) : Prop := p ∈ ps ∧ (s.record p).cleanRun.getD 0 < max 1 s.params.kClean
      (∀ p, short p → (s.record p).state.active = true) →
      ∃ t, exec .verificationDeadlineExpiry s = .next t ∧
        ((∀ p, ¬short p) → s.Passes t) ∧
        ((∃ p, short p) → ∃ u : State,
          (∀ p, ¬short p → u.record p = s.record p) ∧
          (∀ p, short p → (s.record p).contact ≠ .closed →
            u.record p = { s.record p with
              state := .faulted, offset := none, cause := some .verifyFail, stamp := some s.time }) ∧
          (∀ p, short p → (s.record p).contact = .closed →
            u.record p = { s.record p with
              state := if s.params.qLim ≤ min 15 ((s.record p).tally + 1) ∨
                  (s.record p).probation ≠ none then .quarantined else .bypassed
              tally := min 15 ((s.record p).tally + 1), offset := none, cause := some .verifyFail,
              stamp := some s.time, probation := none, prior := none }) ∧
          (∀ e, e ∈ u.matrix.orders ↔ e ∈ s.matrix.orders ∨
            ∃ p, short p ∧ (s.record p).contact ≠ .closed ∧ e =
              { pos := p, kind := .toClose, stamp := s.time, holdOff := false, holdOffRun := false,
                hold := false }) ∧
          u.matrix = { s.matrix with orders := u.matrix.orders } ∧ s.Raises u [.faultTaken] ∧
          s.ChangesOnly u [.roster, .matrix, .port] ∧ u.Accounts t .endedByVerify)

/-! ## Rebalancing arithmetic -/

/-- The rebalance, stages 1 to 6: COUNT_LOW below N_MIN; F_eq; under SHIFT with unequal counts the lookup by
the sorted key, used when F_sh is F_eq or more, with the entry's angles given to the phases by their slots;
the speed limit S, RATING_LOW below S_FLOOR; the ramp and proving scale; and the result record
(R121 to R129, R135). Under SHIFT nothing is parked; under EQUALIZE each phase parks as many as it has above
the smallest count, the highest tallies first and the higher rank among equals (R130). Stage 7, the carrier
offsets, is stated of the commit (CommitGivesCarrierOffsets). -/
def Obligations.RebalanceFollowsTheStages : Prop :=
  ∀ (roster : Vector Record 30) (ps : Params) (tables : Tables) (kind : PassKind) (attempt : Nat)
    (lower : Bool),
    let isActive (p : Pos) : Bool := [.inService, .parked, .probation].contains roster[p].state
    let phase (q : Nat) : List Pos := allPositions.filter fun p => p.val / 10 == q && isActive p
    let n (q : Nat) : Nat := (phase q).length
    let least := min (n 0) (min (n 1) (n 2))
    let feq := min 10000 (10000 * least / ps.nRated)
    let outcome := rebalance roster ps tables kind attempt lower
    let ends (policy : PolicyUsed) (key : Option Key) (miss : Bool) (phiB phiC ratio : Nat) : Prop :=
      let speed := ratio * (10000 - ps.mV) / 10000
      (speed < ps.sFloor → outcome = .lockout .ratingLow miss) ∧
      (ps.sFloor ≤ speed → ∀ (i : Fin 16) (scale : ScaleEntry),
        i.val = 2 * (min attempt 8 - 1) + (if lower then 1 else 0) →
        scale = (if kind = .cold then { ramp := 64, proving := 0 } else tables.scale[i]) →
        ∃ parked : List Pos, outcome = .commit
          { kind := kind, attempt := attempt, policy := policy, countA := n 0, countB := n 1, countC := n 2,
            key := key, miss := miss, phiB := phiB, phiC := phiC, ratio := ratio, speed := speed,
            ramp := ps.rBase * scale.ramp / 64, proving := scale.proving } parked ∧
          (policy = .shift → parked = []) ∧
          (policy = .equalize → parked.Nodup ∧ (∀ p ∈ parked, isActive p = true) ∧
            (∀ q < 3, (parked.filter fun p => p.val / 10 == q).length = n q - least) ∧
            ∀ p ∈ parked, ∀ p', p'.val / 10 = p.val / 10 → isActive p' = true → p' ∉ parked →
              roster[p'].tally < roster[p].tally ∨
                (roster[p'].tally = roster[p].tally ∧ p'.val < p.val)))
    (least < ps.nMin → outcome = .lockout .countLow false) ∧
    (ps.nMin ≤ least → ps.policy ≠ 0 ∨ (n 0 = n 1 ∧ n 1 = n 2) →
      ends .equalize none false 12000 24000 feq) ∧
    (ps.nMin ≤ least → ps.policy = 0 → ¬(n 0 = n 1 ∧ n 1 = n 2) →
      ∀ x y z : Nat, x < 3 → y < 3 → z < 3 → x ≠ y → y ≠ z → x ≠ z →
        (n y < n x ∨ (n x = n y ∧ x < y)) → (n z < n y ∨ (n y = n z ∧ y < z)) →
        let key : Key := { h := n x, i := n y, j := n z }
        let angle (e : ShiftEntry) (u v : Nat) : Nat :=
          if (u = x ∧ v = y) ∨ (u = y ∧ v = x) then e.hi
          else if (u = y ∧ v = z) ∨ (u = z ∧ v = y) then e.ij else e.jh
        (findShift tables.shift key = none → ends .equalize (some key) true 12000 24000 feq) ∧
        ∀ e, findShift tables.shift key = some e →
          (e.fsh < feq → ends .equalize (some key) false 12000 24000 feq) ∧
          (feq ≤ e.fsh → ends .shift (some key) false (angle e 0 1) (angle e 0 1 + angle e 1 2) e.fsh))

/-- The commit at the roster: a parked candidate is PARKED without an offset, any other candidate is unparked,
a PARKED one with probation remaining to PROBATION, and holds the carrier offset of its number k among the
modulating records of its phase, m of them: k parts of 32768 in m, and the phase's part of 32768 in 3 m, each
to the nearest integer, halves up, at most 32767 together; other records keep what they hold (R15, R131 to
R134). -/
def Obligations.CommitGivesCarrierOffsets : Prop :=
  ∀ (s : State) (parked : List Pos) (p : Pos),
    let r := s.record p
    let isActive (q : Pos) : Bool := [.inService, .parked, .probation].contains (s.record q).state
    let modulates (q : Pos) : Bool := isActive q && !parked.contains q
    let u := s.commitRoster parked
    (isActive p = false → u.record p = r) ∧
    (isActive p = true → p ∈ parked → u.record p = { r with state := .parked, offset := none }) ∧
    (isActive p = true → p ∉ parked → ∃ share skew : Nat,
      let m := (allPositions.filter fun q => q.val / 10 == p.val / 10 && modulates q).length
      let k := (allPositions.filter fun q =>
        q.val / 10 == p.val / 10 && modulates q && decide (q.val < p.val)).length
      u.record p = { r with
        state := if r.state = .parked then (if r.probation = none then .inService else .probation)
          else r.state
        offset := some (share + skew) } ∧
      2 * m * share ≤ 65536 * k + m ∧ 65536 * k + m < 2 * m * (share + 1) ∧
      6 * m * skew ≤ 65536 * (p.val / 10) + 3 * m ∧
      65536 * (p.val / 10) + 3 * m < 6 * m * (skew + 1) ∧
      share + skew ≤ 32767) ∧
    s.ChangesOnly u [.roster]

/-! ## What every step keeps -/

/-- Every step keeps the tallies, runs, scores and offsets in their ranges, an offset only in IN_SERVICE and
PROBATION and none in CONFIG, and no channel and no serial tag at two positions (R2, R3, R39, R42, R94,
R133). -/
def Obligations.EveryStepKeepsTheRosterLaws : Prop :=
  ∀ s t : State, step s = .next t →
    (s.Counted → t.Counted) ∧ (s.OffsetsKept → t.OffsetsKept) ∧ (s.Indexed → t.Indexed)

/-- Every step keeps the rating tables sound, the shift table at most 64 sound entries in strictly ascending key
order and every scale entry in its range (R139 to R141, R145); the parameters in their ranges and their pairs in
order, the attempt count at most 15, and the adopted generation equal to the published one or one behind (R102,
R157, R192, R194). -/
def Obligations.EveryStepKeepsTablesAndEngineLaws : Prop :=
  ∀ s t : State, step s = .next t →
    (s.tables.Sound → t.tables.Sound) ∧ (s.Limited → t.Limited) ∧
    (s.publisher.Numbered → t.publisher.Numbered)

/-- Every step keeps the laws of the switch order list and the firing unit: no position twice and at most 30
entries, each CLOSE entry's record FAULTED and each OPEN entry's record OPENING (R75), the record under a pulse
CLOSING or OPENING without an entry, a prior state and a close-failed mark in FAULTED alone, and no dwell while a
pulse is in flight; so no contact is read while one is (R73). -/
def Obligations.EveryStepKeepsTheSwitchLaws : Prop :=
  (∀ s t : State, step s = .next t → s.Switched → t.Switched) ∧
  ∀ (a b c : Bool) (p : Pos) (kind : SwitchKind) (since : Stamp) (s : State), s.Switched →
    s.matrix.unit = .firing p kind since → exec (.scanDwellEnd a b c) s = .next s

/-- TRIP_N is released only in PROVING and RUNNING, BRAKE_HOLD only in RUNNING, and PROVE_EN is asserted in PROVING
alone (R91). Every step keeps a held or unpowered part at its after-reset values, and there the outputs stand at
the levels of CONFIG, ATTN_N, MISO, the rank-select and the fire lines are released, and DTX and MTX are idle
(R91, R188). What stands while the supply is lost is the model's choice (assumption 6). -/
def Obligations.OutputsFollowTheEngineAndTheReset : Prop :=
  (∀ s : State,
    (s.tripN = true ↔ s.engine.state = .proving ∨ s.engine.state = .running) ∧
    (s.brakeHold = false ↔ s.engine.state = .running) ∧
    (s.proveEn = true ↔ s.engine.state = .proving)) ∧
  (∀ s t : State, step s = .next t → s.StandsWhileHeld → t.StandsWhileHeld) ∧
  ∀ s : State, s.StandsWhileHeld → s.mode ≠ .running →
    s.tripN = false ∧ s.brakeHold = true ∧ s.proveEn = false ∧ s.attnN = true ∧
    s.rankSelect = none ∧ s.fireLine = none ∧ (∀ n, s.misoByte n = none) ∧
    (∀ k, s.mtx k = true) ∧ ∀ ch k, s.dtx ch k = true

/-- A QUARANTINED record stays QUARANTINED over every command but RETIRE of its position, a CLEAR_TALLY whose
scope covers it, and a reset, whether given directly or in a request frame (R19). -/
def Obligations.QuarantineEndsByRequestAlone : Prop :=
  ∀ (c : Instr) (p : Pos) (s t : State), exec c s = .next t →
    Instr.releases c p = false → Instr.resets c = false →
    (s.record p).state = .quarantined → (t.record p).state = .quarantined

/-- No command but a reset changes the reset-cause record, and outside CONFIG none but a reset leads back to CONFIG
or changes a parameter (R94, R189, R193, R196). -/
def Obligations.ResetAloneReturnsToConfig : Prop :=
  ∀ (c : Instr) (s t : State), exec c s = .next t → Instr.resets c = false →
    t.port.resetRecord = s.port.resetRecord ∧
    (s.engine.state ≠ .config → t.engine.state ≠ .config ∧ t.params = s.params)

/-- The state after reset keeps the laws that the statements above carry over every step: the counts, the offsets,
the two indexes, the tables, the parameters and the attempt count, the generations, the switch order list and
the firing unit, and the values of a held part. -/
def Obligations.ResetStateKeepsTheLaws : Prop :=
  State.reset.Counted ∧ State.reset.OffsetsKept ∧ State.reset.Indexed ∧ State.reset.tables.Sound ∧
  State.reset.Limited ∧ State.reset.publisher.Numbered ∧ State.reset.Switched ∧
  State.reset.StandsWhileHeld
end

