-- ==== Sys2Proof/Laws/State.lean ====
section
/-! SUPPORT. One lemma per field per update of the state, so that no later proof unfolds an update:
every field that an update leaves alone, and what the written field holds. -/

namespace Sys2Proof.Machine

/-! ### setMode -/

@[simp] theorem State.setMode_mode (s : State) (m : Mode) : (s.setMode m).mode = m := rfl
@[simp] theorem State.setMode_time (s : State) (m : Mode) :
    (s.setMode m).time = s.time := rfl
@[simp] theorem State.setMode_lines (s : State) (m : Mode) :
    (s.setMode m).lines = s.lines := rfl
@[simp] theorem State.setMode_sense (s : State) (m : Mode) :
    (s.setMode m).sense = s.sense := rfl
@[simp] theorem State.setMode_csN (s : State) (m : Mode) :
    (s.setMode m).csN = s.csN := rfl
@[simp] theorem State.setMode_params (s : State) (m : Mode) :
    (s.setMode m).params = s.params := rfl
@[simp] theorem State.setMode_roster (s : State) (m : Mode) :
    (s.setMode m).roster = s.roster := rfl
@[simp] theorem State.setMode_accrual (s : State) (m : Mode) :
    (s.setMode m).accrual = s.accrual := rfl
@[simp] theorem State.setMode_links (s : State) (m : Mode) :
    (s.setMode m).links = s.links := rfl
@[simp] theorem State.setMode_downlinkSince (s : State) (m : Mode) :
    (s.setMode m).downlinkSince = s.downlinkSince := rfl
@[simp] theorem State.setMode_intake (s : State) (m : Mode) :
    (s.setMode m).intake = s.intake := rfl
@[simp] theorem State.setMode_matrix (s : State) (m : Mode) :
    (s.setMode m).matrix = s.matrix := rfl
@[simp] theorem State.setMode_engine (s : State) (m : Mode) :
    (s.setMode m).engine = s.engine := rfl
@[simp] theorem State.setMode_result (s : State) (m : Mode) :
    (s.setMode m).result = s.result := rfl
@[simp] theorem State.setMode_tables (s : State) (m : Mode) :
    (s.setMode m).tables = s.tables := rfl
@[simp] theorem State.setMode_publisher (s : State) (m : Mode) :
    (s.setMode m).publisher = s.publisher := rfl
@[simp] theorem State.setMode_port (s : State) (m : Mode) :
    (s.setMode m).port = s.port := rfl
@[simp] theorem State.setMode_choices (s : State) (m : Mode) :
    (s.setMode m).choices = s.choices := rfl
@[simp] theorem State.setMode_pending (s : State) (m : Mode) :
    (s.setMode m).pending = s.pending := rfl

/-! ### setTime -/

@[simp] theorem State.setTime_time (s : State) (t : Stamp) : (s.setTime t).time = t := rfl
@[simp] theorem State.setTime_mode (s : State) (t : Stamp) :
    (s.setTime t).mode = s.mode := rfl
@[simp] theorem State.setTime_lines (s : State) (t : Stamp) :
    (s.setTime t).lines = s.lines := rfl
@[simp] theorem State.setTime_sense (s : State) (t : Stamp) :
    (s.setTime t).sense = s.sense := rfl
@[simp] theorem State.setTime_csN (s : State) (t : Stamp) :
    (s.setTime t).csN = s.csN := rfl
@[simp] theorem State.setTime_params (s : State) (t : Stamp) :
    (s.setTime t).params = s.params := rfl
@[simp] theorem State.setTime_roster (s : State) (t : Stamp) :
    (s.setTime t).roster = s.roster := rfl
@[simp] theorem State.setTime_accrual (s : State) (t : Stamp) :
    (s.setTime t).accrual = s.accrual := rfl
@[simp] theorem State.setTime_links (s : State) (t : Stamp) :
    (s.setTime t).links = s.links := rfl
@[simp] theorem State.setTime_downlinkSince (s : State) (t : Stamp) :
    (s.setTime t).downlinkSince = s.downlinkSince := rfl
@[simp] theorem State.setTime_intake (s : State) (t : Stamp) :
    (s.setTime t).intake = s.intake := rfl
@[simp] theorem State.setTime_matrix (s : State) (t : Stamp) :
    (s.setTime t).matrix = s.matrix := rfl
@[simp] theorem State.setTime_engine (s : State) (t : Stamp) :
    (s.setTime t).engine = s.engine := rfl
@[simp] theorem State.setTime_result (s : State) (t : Stamp) :
    (s.setTime t).result = s.result := rfl
@[simp] theorem State.setTime_tables (s : State) (t : Stamp) :
    (s.setTime t).tables = s.tables := rfl
@[simp] theorem State.setTime_publisher (s : State) (t : Stamp) :
    (s.setTime t).publisher = s.publisher := rfl
@[simp] theorem State.setTime_port (s : State) (t : Stamp) :
    (s.setTime t).port = s.port := rfl
@[simp] theorem State.setTime_choices (s : State) (t : Stamp) :
    (s.setTime t).choices = s.choices := rfl
@[simp] theorem State.setTime_pending (s : State) (t : Stamp) :
    (s.setTime t).pending = s.pending := rfl

/-! ### setLines -/

@[simp] theorem State.setLines_lines (s : State) (l : Lines) : (s.setLines l).lines = l := rfl
@[simp] theorem State.setLines_mode (s : State) (l : Lines) :
    (s.setLines l).mode = s.mode := rfl
@[simp] theorem State.setLines_time (s : State) (l : Lines) :
    (s.setLines l).time = s.time := rfl
@[simp] theorem State.setLines_sense (s : State) (l : Lines) :
    (s.setLines l).sense = s.sense := rfl
@[simp] theorem State.setLines_csN (s : State) (l : Lines) :
    (s.setLines l).csN = s.csN := rfl
@[simp] theorem State.setLines_params (s : State) (l : Lines) :
    (s.setLines l).params = s.params := rfl
@[simp] theorem State.setLines_roster (s : State) (l : Lines) :
    (s.setLines l).roster = s.roster := rfl
@[simp] theorem State.setLines_accrual (s : State) (l : Lines) :
    (s.setLines l).accrual = s.accrual := rfl
@[simp] theorem State.setLines_links (s : State) (l : Lines) :
    (s.setLines l).links = s.links := rfl
@[simp] theorem State.setLines_downlinkSince (s : State) (l : Lines) :
    (s.setLines l).downlinkSince = s.downlinkSince := rfl
@[simp] theorem State.setLines_intake (s : State) (l : Lines) :
    (s.setLines l).intake = s.intake := rfl
@[simp] theorem State.setLines_matrix (s : State) (l : Lines) :
    (s.setLines l).matrix = s.matrix := rfl
@[simp] theorem State.setLines_engine (s : State) (l : Lines) :
    (s.setLines l).engine = s.engine := rfl
@[simp] theorem State.setLines_result (s : State) (l : Lines) :
    (s.setLines l).result = s.result := rfl
@[simp] theorem State.setLines_tables (s : State) (l : Lines) :
    (s.setLines l).tables = s.tables := rfl
@[simp] theorem State.setLines_publisher (s : State) (l : Lines) :
    (s.setLines l).publisher = s.publisher := rfl
@[simp] theorem State.setLines_port (s : State) (l : Lines) :
    (s.setLines l).port = s.port := rfl
@[simp] theorem State.setLines_choices (s : State) (l : Lines) :
    (s.setLines l).choices = s.choices := rfl
@[simp] theorem State.setLines_pending (s : State) (l : Lines) :
    (s.setLines l).pending = s.pending := rfl

/-! ### setSense -/

@[simp] theorem State.setSense_sense (s : State) (l : Sense) : (s.setSense l).sense = l := rfl
@[simp] theorem State.setSense_mode (s : State) (l : Sense) :
    (s.setSense l).mode = s.mode := rfl
@[simp] theorem State.setSense_time (s : State) (l : Sense) :
    (s.setSense l).time = s.time := rfl
@[simp] theorem State.setSense_lines (s : State) (l : Sense) :
    (s.setSense l).lines = s.lines := rfl
@[simp] theorem State.setSense_csN (s : State) (l : Sense) :
    (s.setSense l).csN = s.csN := rfl
@[simp] theorem State.setSense_params (s : State) (l : Sense) :
    (s.setSense l).params = s.params := rfl
@[simp] theorem State.setSense_roster (s : State) (l : Sense) :
    (s.setSense l).roster = s.roster := rfl
@[simp] theorem State.setSense_accrual (s : State) (l : Sense) :
    (s.setSense l).accrual = s.accrual := rfl
@[simp] theorem State.setSense_links (s : State) (l : Sense) :
    (s.setSense l).links = s.links := rfl
@[simp] theorem State.setSense_downlinkSince (s : State) (l : Sense) :
    (s.setSense l).downlinkSince = s.downlinkSince := rfl
@[simp] theorem State.setSense_intake (s : State) (l : Sense) :
    (s.setSense l).intake = s.intake := rfl
@[simp] theorem State.setSense_matrix (s : State) (l : Sense) :
    (s.setSense l).matrix = s.matrix := rfl
@[simp] theorem State.setSense_engine (s : State) (l : Sense) :
    (s.setSense l).engine = s.engine := rfl
@[simp] theorem State.setSense_result (s : State) (l : Sense) :
    (s.setSense l).result = s.result := rfl
@[simp] theorem State.setSense_tables (s : State) (l : Sense) :
    (s.setSense l).tables = s.tables := rfl
@[simp] theorem State.setSense_publisher (s : State) (l : Sense) :
    (s.setSense l).publisher = s.publisher := rfl
@[simp] theorem State.setSense_port (s : State) (l : Sense) :
    (s.setSense l).port = s.port := rfl
@[simp] theorem State.setSense_choices (s : State) (l : Sense) :
    (s.setSense l).choices = s.choices := rfl
@[simp] theorem State.setSense_pending (s : State) (l : Sense) :
    (s.setSense l).pending = s.pending := rfl

/-! ### setCsN -/

@[simp] theorem State.setCsN_csN (s : State) (level : Bool) : (s.setCsN level).csN = level := rfl
@[simp] theorem State.setCsN_mode (s : State) (level : Bool) :
    (s.setCsN level).mode = s.mode := rfl
@[simp] theorem State.setCsN_time (s : State) (level : Bool) :
    (s.setCsN level).time = s.time := rfl
@[simp] theorem State.setCsN_lines (s : State) (level : Bool) :
    (s.setCsN level).lines = s.lines := rfl
@[simp] theorem State.setCsN_sense (s : State) (level : Bool) :
    (s.setCsN level).sense = s.sense := rfl
@[simp] theorem State.setCsN_params (s : State) (level : Bool) :
    (s.setCsN level).params = s.params := rfl
@[simp] theorem State.setCsN_roster (s : State) (level : Bool) :
    (s.setCsN level).roster = s.roster := rfl
@[simp] theorem State.setCsN_accrual (s : State) (level : Bool) :
    (s.setCsN level).accrual = s.accrual := rfl
@[simp] theorem State.setCsN_links (s : State) (level : Bool) :
    (s.setCsN level).links = s.links := rfl
@[simp] theorem State.setCsN_downlinkSince (s : State) (level : Bool) :
    (s.setCsN level).downlinkSince = s.downlinkSince := rfl
@[simp] theorem State.setCsN_intake (s : State) (level : Bool) :
    (s.setCsN level).intake = s.intake := rfl
@[simp] theorem State.setCsN_matrix (s : State) (level : Bool) :
    (s.setCsN level).matrix = s.matrix := rfl
@[simp] theorem State.setCsN_engine (s : State) (level : Bool) :
    (s.setCsN level).engine = s.engine := rfl
@[simp] theorem State.setCsN_result (s : State) (level : Bool) :
    (s.setCsN level).result = s.result := rfl
@[simp] theorem State.setCsN_tables (s : State) (level : Bool) :
    (s.setCsN level).tables = s.tables := rfl
@[simp] theorem State.setCsN_publisher (s : State) (level : Bool) :
    (s.setCsN level).publisher = s.publisher := rfl
@[simp] theorem State.setCsN_port (s : State) (level : Bool) :
    (s.setCsN level).port = s.port := rfl
@[simp] theorem State.setCsN_choices (s : State) (level : Bool) :
    (s.setCsN level).choices = s.choices := rfl
@[simp] theorem State.setCsN_pending (s : State) (level : Bool) :
    (s.setCsN level).pending = s.pending := rfl

/-! ### setParams -/

@[simp] theorem State.setParams_params (s : State) (ps : Params) : (s.setParams ps).params = ps := rfl
@[simp] theorem State.setParams_mode (s : State) (ps : Params) :
    (s.setParams ps).mode = s.mode := rfl
@[simp] theorem State.setParams_time (s : State) (ps : Params) :
    (s.setParams ps).time = s.time := rfl
@[simp] theorem State.setParams_lines (s : State) (ps : Params) :
    (s.setParams ps).lines = s.lines := rfl
@[simp] theorem State.setParams_sense (s : State) (ps : Params) :
    (s.setParams ps).sense = s.sense := rfl
@[simp] theorem State.setParams_csN (s : State) (ps : Params) :
    (s.setParams ps).csN = s.csN := rfl
@[simp] theorem State.setParams_roster (s : State) (ps : Params) :
    (s.setParams ps).roster = s.roster := rfl
@[simp] theorem State.setParams_accrual (s : State) (ps : Params) :
    (s.setParams ps).accrual = s.accrual := rfl
@[simp] theorem State.setParams_links (s : State) (ps : Params) :
    (s.setParams ps).links = s.links := rfl
@[simp] theorem State.setParams_downlinkSince (s : State) (ps : Params) :
    (s.setParams ps).downlinkSince = s.downlinkSince := rfl
@[simp] theorem State.setParams_intake (s : State) (ps : Params) :
    (s.setParams ps).intake = s.intake := rfl
@[simp] theorem State.setParams_matrix (s : State) (ps : Params) :
    (s.setParams ps).matrix = s.matrix := rfl
@[simp] theorem State.setParams_engine (s : State) (ps : Params) :
    (s.setParams ps).engine = s.engine := rfl
@[simp] theorem State.setParams_result (s : State) (ps : Params) :
    (s.setParams ps).result = s.result := rfl
@[simp] theorem State.setParams_tables (s : State) (ps : Params) :
    (s.setParams ps).tables = s.tables := rfl
@[simp] theorem State.setParams_publisher (s : State) (ps : Params) :
    (s.setParams ps).publisher = s.publisher := rfl
@[simp] theorem State.setParams_port (s : State) (ps : Params) :
    (s.setParams ps).port = s.port := rfl
@[simp] theorem State.setParams_choices (s : State) (ps : Params) :
    (s.setParams ps).choices = s.choices := rfl
@[simp] theorem State.setParams_pending (s : State) (ps : Params) :
    (s.setParams ps).pending = s.pending := rfl

/-! ### setRoster -/

@[simp] theorem State.setRoster_roster (s : State) (v : Vector Record 30) : (s.setRoster v).roster = v := rfl
@[simp] theorem State.setRoster_mode (s : State) (v : Vector Record 30) :
    (s.setRoster v).mode = s.mode := rfl
@[simp] theorem State.setRoster_time (s : State) (v : Vector Record 30) :
    (s.setRoster v).time = s.time := rfl
@[simp] theorem State.setRoster_lines (s : State) (v : Vector Record 30) :
    (s.setRoster v).lines = s.lines := rfl
@[simp] theorem State.setRoster_sense (s : State) (v : Vector Record 30) :
    (s.setRoster v).sense = s.sense := rfl
@[simp] theorem State.setRoster_csN (s : State) (v : Vector Record 30) :
    (s.setRoster v).csN = s.csN := rfl
@[simp] theorem State.setRoster_params (s : State) (v : Vector Record 30) :
    (s.setRoster v).params = s.params := rfl
@[simp] theorem State.setRoster_accrual (s : State) (v : Vector Record 30) :
    (s.setRoster v).accrual = s.accrual := rfl
@[simp] theorem State.setRoster_links (s : State) (v : Vector Record 30) :
    (s.setRoster v).links = s.links := rfl
@[simp] theorem State.setRoster_downlinkSince (s : State) (v : Vector Record 30) :
    (s.setRoster v).downlinkSince = s.downlinkSince := rfl
@[simp] theorem State.setRoster_intake (s : State) (v : Vector Record 30) :
    (s.setRoster v).intake = s.intake := rfl
@[simp] theorem State.setRoster_matrix (s : State) (v : Vector Record 30) :
    (s.setRoster v).matrix = s.matrix := rfl
@[simp] theorem State.setRoster_engine (s : State) (v : Vector Record 30) :
    (s.setRoster v).engine = s.engine := rfl
@[simp] theorem State.setRoster_result (s : State) (v : Vector Record 30) :
    (s.setRoster v).result = s.result := rfl
@[simp] theorem State.setRoster_tables (s : State) (v : Vector Record 30) :
    (s.setRoster v).tables = s.tables := rfl
@[simp] theorem State.setRoster_publisher (s : State) (v : Vector Record 30) :
    (s.setRoster v).publisher = s.publisher := rfl
@[simp] theorem State.setRoster_port (s : State) (v : Vector Record 30) :
    (s.setRoster v).port = s.port := rfl
@[simp] theorem State.setRoster_choices (s : State) (v : Vector Record 30) :
    (s.setRoster v).choices = s.choices := rfl
@[simp] theorem State.setRoster_pending (s : State) (v : Vector Record 30) :
    (s.setRoster v).pending = s.pending := rfl

/-! ### setAccrual -/

@[simp] theorem State.setAccrual_accrual (s : State) (n : Nat) : (s.setAccrual n).accrual = n := rfl
@[simp] theorem State.setAccrual_mode (s : State) (n : Nat) :
    (s.setAccrual n).mode = s.mode := rfl
@[simp] theorem State.setAccrual_time (s : State) (n : Nat) :
    (s.setAccrual n).time = s.time := rfl
@[simp] theorem State.setAccrual_lines (s : State) (n : Nat) :
    (s.setAccrual n).lines = s.lines := rfl
@[simp] theorem State.setAccrual_sense (s : State) (n : Nat) :
    (s.setAccrual n).sense = s.sense := rfl
@[simp] theorem State.setAccrual_csN (s : State) (n : Nat) :
    (s.setAccrual n).csN = s.csN := rfl
@[simp] theorem State.setAccrual_params (s : State) (n : Nat) :
    (s.setAccrual n).params = s.params := rfl
@[simp] theorem State.setAccrual_roster (s : State) (n : Nat) :
    (s.setAccrual n).roster = s.roster := rfl
@[simp] theorem State.setAccrual_links (s : State) (n : Nat) :
    (s.setAccrual n).links = s.links := rfl
@[simp] theorem State.setAccrual_downlinkSince (s : State) (n : Nat) :
    (s.setAccrual n).downlinkSince = s.downlinkSince := rfl
@[simp] theorem State.setAccrual_intake (s : State) (n : Nat) :
    (s.setAccrual n).intake = s.intake := rfl
@[simp] theorem State.setAccrual_matrix (s : State) (n : Nat) :
    (s.setAccrual n).matrix = s.matrix := rfl
@[simp] theorem State.setAccrual_engine (s : State) (n : Nat) :
    (s.setAccrual n).engine = s.engine := rfl
@[simp] theorem State.setAccrual_result (s : State) (n : Nat) :
    (s.setAccrual n).result = s.result := rfl
@[simp] theorem State.setAccrual_tables (s : State) (n : Nat) :
    (s.setAccrual n).tables = s.tables := rfl
@[simp] theorem State.setAccrual_publisher (s : State) (n : Nat) :
    (s.setAccrual n).publisher = s.publisher := rfl
@[simp] theorem State.setAccrual_port (s : State) (n : Nat) :
    (s.setAccrual n).port = s.port := rfl
@[simp] theorem State.setAccrual_choices (s : State) (n : Nat) :
    (s.setAccrual n).choices = s.choices := rfl
@[simp] theorem State.setAccrual_pending (s : State) (n : Nat) :
    (s.setAccrual n).pending = s.pending := rfl

/-! ### setLinks -/

@[simp] theorem State.setLinks_links (s : State) (v : Vector Link 32) : (s.setLinks v).links = v := rfl
@[simp] theorem State.setLinks_mode (s : State) (v : Vector Link 32) :
    (s.setLinks v).mode = s.mode := rfl
@[simp] theorem State.setLinks_time (s : State) (v : Vector Link 32) :
    (s.setLinks v).time = s.time := rfl
@[simp] theorem State.setLinks_lines (s : State) (v : Vector Link 32) :
    (s.setLinks v).lines = s.lines := rfl
@[simp] theorem State.setLinks_sense (s : State) (v : Vector Link 32) :
    (s.setLinks v).sense = s.sense := rfl
@[simp] theorem State.setLinks_csN (s : State) (v : Vector Link 32) :
    (s.setLinks v).csN = s.csN := rfl
@[simp] theorem State.setLinks_params (s : State) (v : Vector Link 32) :
    (s.setLinks v).params = s.params := rfl
@[simp] theorem State.setLinks_roster (s : State) (v : Vector Link 32) :
    (s.setLinks v).roster = s.roster := rfl
@[simp] theorem State.setLinks_accrual (s : State) (v : Vector Link 32) :
    (s.setLinks v).accrual = s.accrual := rfl
@[simp] theorem State.setLinks_downlinkSince (s : State) (v : Vector Link 32) :
    (s.setLinks v).downlinkSince = s.downlinkSince := rfl
@[simp] theorem State.setLinks_intake (s : State) (v : Vector Link 32) :
    (s.setLinks v).intake = s.intake := rfl
@[simp] theorem State.setLinks_matrix (s : State) (v : Vector Link 32) :
    (s.setLinks v).matrix = s.matrix := rfl
@[simp] theorem State.setLinks_engine (s : State) (v : Vector Link 32) :
    (s.setLinks v).engine = s.engine := rfl
@[simp] theorem State.setLinks_result (s : State) (v : Vector Link 32) :
    (s.setLinks v).result = s.result := rfl
@[simp] theorem State.setLinks_tables (s : State) (v : Vector Link 32) :
    (s.setLinks v).tables = s.tables := rfl
@[simp] theorem State.setLinks_publisher (s : State) (v : Vector Link 32) :
    (s.setLinks v).publisher = s.publisher := rfl
@[simp] theorem State.setLinks_port (s : State) (v : Vector Link 32) :
    (s.setLinks v).port = s.port := rfl
@[simp] theorem State.setLinks_choices (s : State) (v : Vector Link 32) :
    (s.setLinks v).choices = s.choices := rfl
@[simp] theorem State.setLinks_pending (s : State) (v : Vector Link 32) :
    (s.setLinks v).pending = s.pending := rfl

/-! ### setDownlinkSince -/

@[simp] theorem State.setDownlinkSince_downlinkSince (s : State) (t : Stamp) : (s.setDownlinkSince t).downlinkSince = t := rfl
@[simp] theorem State.setDownlinkSince_mode (s : State) (t : Stamp) :
    (s.setDownlinkSince t).mode = s.mode := rfl
@[simp] theorem State.setDownlinkSince_time (s : State) (t : Stamp) :
    (s.setDownlinkSince t).time = s.time := rfl
@[simp] theorem State.setDownlinkSince_lines (s : State) (t : Stamp) :
    (s.setDownlinkSince t).lines = s.lines := rfl
@[simp] theorem State.setDownlinkSince_sense (s : State) (t : Stamp) :
    (s.setDownlinkSince t).sense = s.sense := rfl
@[simp] theorem State.setDownlinkSince_csN (s : State) (t : Stamp) :
    (s.setDownlinkSince t).csN = s.csN := rfl
@[simp] theorem State.setDownlinkSince_params (s : State) (t : Stamp) :
    (s.setDownlinkSince t).params = s.params := rfl
@[simp] theorem State.setDownlinkSince_roster (s : State) (t : Stamp) :
    (s.setDownlinkSince t).roster = s.roster := rfl
@[simp] theorem State.setDownlinkSince_accrual (s : State) (t : Stamp) :
    (s.setDownlinkSince t).accrual = s.accrual := rfl
@[simp] theorem State.setDownlinkSince_links (s : State) (t : Stamp) :
    (s.setDownlinkSince t).links = s.links := rfl
@[simp] theorem State.setDownlinkSince_intake (s : State) (t : Stamp) :
    (s.setDownlinkSince t).intake = s.intake := rfl
@[simp] theorem State.setDownlinkSince_matrix (s : State) (t : Stamp) :
    (s.setDownlinkSince t).matrix = s.matrix := rfl
@[simp] theorem State.setDownlinkSince_engine (s : State) (t : Stamp) :
    (s.setDownlinkSince t).engine = s.engine := rfl
@[simp] theorem State.setDownlinkSince_result (s : State) (t : Stamp) :
    (s.setDownlinkSince t).result = s.result := rfl
@[simp] theorem State.setDownlinkSince_tables (s : State) (t : Stamp) :
    (s.setDownlinkSince t).tables = s.tables := rfl
@[simp] theorem State.setDownlinkSince_publisher (s : State) (t : Stamp) :
    (s.setDownlinkSince t).publisher = s.publisher := rfl
@[simp] theorem State.setDownlinkSince_port (s : State) (t : Stamp) :
    (s.setDownlinkSince t).port = s.port := rfl
@[simp] theorem State.setDownlinkSince_choices (s : State) (t : Stamp) :
    (s.setDownlinkSince t).choices = s.choices := rfl
@[simp] theorem State.setDownlinkSince_pending (s : State) (t : Stamp) :
    (s.setDownlinkSince t).pending = s.pending := rfl

/-! ### setIntake -/

@[simp] theorem State.setIntake_intake (s : State) (i : Intake) : (s.setIntake i).intake = i := rfl
@[simp] theorem State.setIntake_mode (s : State) (i : Intake) :
    (s.setIntake i).mode = s.mode := rfl
@[simp] theorem State.setIntake_time (s : State) (i : Intake) :
    (s.setIntake i).time = s.time := rfl
@[simp] theorem State.setIntake_lines (s : State) (i : Intake) :
    (s.setIntake i).lines = s.lines := rfl
@[simp] theorem State.setIntake_sense (s : State) (i : Intake) :
    (s.setIntake i).sense = s.sense := rfl
@[simp] theorem State.setIntake_csN (s : State) (i : Intake) :
    (s.setIntake i).csN = s.csN := rfl
@[simp] theorem State.setIntake_params (s : State) (i : Intake) :
    (s.setIntake i).params = s.params := rfl
@[simp] theorem State.setIntake_roster (s : State) (i : Intake) :
    (s.setIntake i).roster = s.roster := rfl
@[simp] theorem State.setIntake_accrual (s : State) (i : Intake) :
    (s.setIntake i).accrual = s.accrual := rfl
@[simp] theorem State.setIntake_links (s : State) (i : Intake) :
    (s.setIntake i).links = s.links := rfl
@[simp] theorem State.setIntake_downlinkSince (s : State) (i : Intake) :
    (s.setIntake i).downlinkSince = s.downlinkSince := rfl
@[simp] theorem State.setIntake_matrix (s : State) (i : Intake) :
    (s.setIntake i).matrix = s.matrix := rfl
@[simp] theorem State.setIntake_engine (s : State) (i : Intake) :
    (s.setIntake i).engine = s.engine := rfl
@[simp] theorem State.setIntake_result (s : State) (i : Intake) :
    (s.setIntake i).result = s.result := rfl
@[simp] theorem State.setIntake_tables (s : State) (i : Intake) :
    (s.setIntake i).tables = s.tables := rfl
@[simp] theorem State.setIntake_publisher (s : State) (i : Intake) :
    (s.setIntake i).publisher = s.publisher := rfl
@[simp] theorem State.setIntake_port (s : State) (i : Intake) :
    (s.setIntake i).port = s.port := rfl
@[simp] theorem State.setIntake_choices (s : State) (i : Intake) :
    (s.setIntake i).choices = s.choices := rfl
@[simp] theorem State.setIntake_pending (s : State) (i : Intake) :
    (s.setIntake i).pending = s.pending := rfl

/-! ### setMatrix -/

@[simp] theorem State.setMatrix_matrix (s : State) (m : Matrix) : (s.setMatrix m).matrix = m := rfl
@[simp] theorem State.setMatrix_mode (s : State) (m : Matrix) :
    (s.setMatrix m).mode = s.mode := rfl
@[simp] theorem State.setMatrix_time (s : State) (m : Matrix) :
    (s.setMatrix m).time = s.time := rfl
@[simp] theorem State.setMatrix_lines (s : State) (m : Matrix) :
    (s.setMatrix m).lines = s.lines := rfl
@[simp] theorem State.setMatrix_sense (s : State) (m : Matrix) :
    (s.setMatrix m).sense = s.sense := rfl
@[simp] theorem State.setMatrix_csN (s : State) (m : Matrix) :
    (s.setMatrix m).csN = s.csN := rfl
@[simp] theorem State.setMatrix_params (s : State) (m : Matrix) :
    (s.setMatrix m).params = s.params := rfl
@[simp] theorem State.setMatrix_roster (s : State) (m : Matrix) :
    (s.setMatrix m).roster = s.roster := rfl
@[simp] theorem State.setMatrix_accrual (s : State) (m : Matrix) :
    (s.setMatrix m).accrual = s.accrual := rfl
@[simp] theorem State.setMatrix_links (s : State) (m : Matrix) :
    (s.setMatrix m).links = s.links := rfl
@[simp] theorem State.setMatrix_downlinkSince (s : State) (m : Matrix) :
    (s.setMatrix m).downlinkSince = s.downlinkSince := rfl
@[simp] theorem State.setMatrix_intake (s : State) (m : Matrix) :
    (s.setMatrix m).intake = s.intake := rfl
@[simp] theorem State.setMatrix_engine (s : State) (m : Matrix) :
    (s.setMatrix m).engine = s.engine := rfl
@[simp] theorem State.setMatrix_result (s : State) (m : Matrix) :
    (s.setMatrix m).result = s.result := rfl
@[simp] theorem State.setMatrix_tables (s : State) (m : Matrix) :
    (s.setMatrix m).tables = s.tables := rfl
@[simp] theorem State.setMatrix_publisher (s : State) (m : Matrix) :
    (s.setMatrix m).publisher = s.publisher := rfl
@[simp] theorem State.setMatrix_port (s : State) (m : Matrix) :
    (s.setMatrix m).port = s.port := rfl
@[simp] theorem State.setMatrix_choices (s : State) (m : Matrix) :
    (s.setMatrix m).choices = s.choices := rfl
@[simp] theorem State.setMatrix_pending (s : State) (m : Matrix) :
    (s.setMatrix m).pending = s.pending := rfl

/-! ### setEngine -/

@[simp] theorem State.setEngine_engine (s : State) (e : Engine) : (s.setEngine e).engine = e := rfl
@[simp] theorem State.setEngine_mode (s : State) (e : Engine) :
    (s.setEngine e).mode = s.mode := rfl
@[simp] theorem State.setEngine_time (s : State) (e : Engine) :
    (s.setEngine e).time = s.time := rfl
@[simp] theorem State.setEngine_lines (s : State) (e : Engine) :
    (s.setEngine e).lines = s.lines := rfl
@[simp] theorem State.setEngine_sense (s : State) (e : Engine) :
    (s.setEngine e).sense = s.sense := rfl
@[simp] theorem State.setEngine_csN (s : State) (e : Engine) :
    (s.setEngine e).csN = s.csN := rfl
@[simp] theorem State.setEngine_params (s : State) (e : Engine) :
    (s.setEngine e).params = s.params := rfl
@[simp] theorem State.setEngine_roster (s : State) (e : Engine) :
    (s.setEngine e).roster = s.roster := rfl
@[simp] theorem State.setEngine_accrual (s : State) (e : Engine) :
    (s.setEngine e).accrual = s.accrual := rfl
@[simp] theorem State.setEngine_links (s : State) (e : Engine) :
    (s.setEngine e).links = s.links := rfl
@[simp] theorem State.setEngine_downlinkSince (s : State) (e : Engine) :
    (s.setEngine e).downlinkSince = s.downlinkSince := rfl
@[simp] theorem State.setEngine_intake (s : State) (e : Engine) :
    (s.setEngine e).intake = s.intake := rfl
@[simp] theorem State.setEngine_matrix (s : State) (e : Engine) :
    (s.setEngine e).matrix = s.matrix := rfl
@[simp] theorem State.setEngine_result (s : State) (e : Engine) :
    (s.setEngine e).result = s.result := rfl
@[simp] theorem State.setEngine_tables (s : State) (e : Engine) :
    (s.setEngine e).tables = s.tables := rfl
@[simp] theorem State.setEngine_publisher (s : State) (e : Engine) :
    (s.setEngine e).publisher = s.publisher := rfl
@[simp] theorem State.setEngine_port (s : State) (e : Engine) :
    (s.setEngine e).port = s.port := rfl
@[simp] theorem State.setEngine_choices (s : State) (e : Engine) :
    (s.setEngine e).choices = s.choices := rfl
@[simp] theorem State.setEngine_pending (s : State) (e : Engine) :
    (s.setEngine e).pending = s.pending := rfl

/-! ### setResult -/

@[simp] theorem State.setResult_result (s : State) (r : Option Result) : (s.setResult r).result = r := rfl
@[simp] theorem State.setResult_mode (s : State) (r : Option Result) :
    (s.setResult r).mode = s.mode := rfl
@[simp] theorem State.setResult_time (s : State) (r : Option Result) :
    (s.setResult r).time = s.time := rfl
@[simp] theorem State.setResult_lines (s : State) (r : Option Result) :
    (s.setResult r).lines = s.lines := rfl
@[simp] theorem State.setResult_sense (s : State) (r : Option Result) :
    (s.setResult r).sense = s.sense := rfl
@[simp] theorem State.setResult_csN (s : State) (r : Option Result) :
    (s.setResult r).csN = s.csN := rfl
@[simp] theorem State.setResult_params (s : State) (r : Option Result) :
    (s.setResult r).params = s.params := rfl
@[simp] theorem State.setResult_roster (s : State) (r : Option Result) :
    (s.setResult r).roster = s.roster := rfl
@[simp] theorem State.setResult_accrual (s : State) (r : Option Result) :
    (s.setResult r).accrual = s.accrual := rfl
@[simp] theorem State.setResult_links (s : State) (r : Option Result) :
    (s.setResult r).links = s.links := rfl
@[simp] theorem State.setResult_downlinkSince (s : State) (r : Option Result) :
    (s.setResult r).downlinkSince = s.downlinkSince := rfl
@[simp] theorem State.setResult_intake (s : State) (r : Option Result) :
    (s.setResult r).intake = s.intake := rfl
@[simp] theorem State.setResult_matrix (s : State) (r : Option Result) :
    (s.setResult r).matrix = s.matrix := rfl
@[simp] theorem State.setResult_engine (s : State) (r : Option Result) :
    (s.setResult r).engine = s.engine := rfl
@[simp] theorem State.setResult_tables (s : State) (r : Option Result) :
    (s.setResult r).tables = s.tables := rfl
@[simp] theorem State.setResult_publisher (s : State) (r : Option Result) :
    (s.setResult r).publisher = s.publisher := rfl
@[simp] theorem State.setResult_port (s : State) (r : Option Result) :
    (s.setResult r).port = s.port := rfl
@[simp] theorem State.setResult_choices (s : State) (r : Option Result) :
    (s.setResult r).choices = s.choices := rfl
@[simp] theorem State.setResult_pending (s : State) (r : Option Result) :
    (s.setResult r).pending = s.pending := rfl

/-! ### setTables -/

@[simp] theorem State.setTables_tables (s : State) (t : Tables) : (s.setTables t).tables = t := rfl
@[simp] theorem State.setTables_mode (s : State) (t : Tables) :
    (s.setTables t).mode = s.mode := rfl
@[simp] theorem State.setTables_time (s : State) (t : Tables) :
    (s.setTables t).time = s.time := rfl
@[simp] theorem State.setTables_lines (s : State) (t : Tables) :
    (s.setTables t).lines = s.lines := rfl
@[simp] theorem State.setTables_sense (s : State) (t : Tables) :
    (s.setTables t).sense = s.sense := rfl
@[simp] theorem State.setTables_csN (s : State) (t : Tables) :
    (s.setTables t).csN = s.csN := rfl
@[simp] theorem State.setTables_params (s : State) (t : Tables) :
    (s.setTables t).params = s.params := rfl
@[simp] theorem State.setTables_roster (s : State) (t : Tables) :
    (s.setTables t).roster = s.roster := rfl
@[simp] theorem State.setTables_accrual (s : State) (t : Tables) :
    (s.setTables t).accrual = s.accrual := rfl
@[simp] theorem State.setTables_links (s : State) (t : Tables) :
    (s.setTables t).links = s.links := rfl
@[simp] theorem State.setTables_downlinkSince (s : State) (t : Tables) :
    (s.setTables t).downlinkSince = s.downlinkSince := rfl
@[simp] theorem State.setTables_intake (s : State) (t : Tables) :
    (s.setTables t).intake = s.intake := rfl
@[simp] theorem State.setTables_matrix (s : State) (t : Tables) :
    (s.setTables t).matrix = s.matrix := rfl
@[simp] theorem State.setTables_engine (s : State) (t : Tables) :
    (s.setTables t).engine = s.engine := rfl
@[simp] theorem State.setTables_result (s : State) (t : Tables) :
    (s.setTables t).result = s.result := rfl
@[simp] theorem State.setTables_publisher (s : State) (t : Tables) :
    (s.setTables t).publisher = s.publisher := rfl
@[simp] theorem State.setTables_port (s : State) (t : Tables) :
    (s.setTables t).port = s.port := rfl
@[simp] theorem State.setTables_choices (s : State) (t : Tables) :
    (s.setTables t).choices = s.choices := rfl
@[simp] theorem State.setTables_pending (s : State) (t : Tables) :
    (s.setTables t).pending = s.pending := rfl

/-! ### setPublisher -/

@[simp] theorem State.setPublisher_publisher (s : State) (p : Publisher) : (s.setPublisher p).publisher = p := rfl
@[simp] theorem State.setPublisher_mode (s : State) (p : Publisher) :
    (s.setPublisher p).mode = s.mode := rfl
@[simp] theorem State.setPublisher_time (s : State) (p : Publisher) :
    (s.setPublisher p).time = s.time := rfl
@[simp] theorem State.setPublisher_lines (s : State) (p : Publisher) :
    (s.setPublisher p).lines = s.lines := rfl
@[simp] theorem State.setPublisher_sense (s : State) (p : Publisher) :
    (s.setPublisher p).sense = s.sense := rfl
@[simp] theorem State.setPublisher_csN (s : State) (p : Publisher) :
    (s.setPublisher p).csN = s.csN := rfl
@[simp] theorem State.setPublisher_params (s : State) (p : Publisher) :
    (s.setPublisher p).params = s.params := rfl
@[simp] theorem State.setPublisher_roster (s : State) (p : Publisher) :
    (s.setPublisher p).roster = s.roster := rfl
@[simp] theorem State.setPublisher_accrual (s : State) (p : Publisher) :
    (s.setPublisher p).accrual = s.accrual := rfl
@[simp] theorem State.setPublisher_links (s : State) (p : Publisher) :
    (s.setPublisher p).links = s.links := rfl
@[simp] theorem State.setPublisher_downlinkSince (s : State) (p : Publisher) :
    (s.setPublisher p).downlinkSince = s.downlinkSince := rfl
@[simp] theorem State.setPublisher_intake (s : State) (p : Publisher) :
    (s.setPublisher p).intake = s.intake := rfl
@[simp] theorem State.setPublisher_matrix (s : State) (p : Publisher) :
    (s.setPublisher p).matrix = s.matrix := rfl
@[simp] theorem State.setPublisher_engine (s : State) (p : Publisher) :
    (s.setPublisher p).engine = s.engine := rfl
@[simp] theorem State.setPublisher_result (s : State) (p : Publisher) :
    (s.setPublisher p).result = s.result := rfl
@[simp] theorem State.setPublisher_tables (s : State) (p : Publisher) :
    (s.setPublisher p).tables = s.tables := rfl
@[simp] theorem State.setPublisher_port (s : State) (p : Publisher) :
    (s.setPublisher p).port = s.port := rfl
@[simp] theorem State.setPublisher_choices (s : State) (p : Publisher) :
    (s.setPublisher p).choices = s.choices := rfl
@[simp] theorem State.setPublisher_pending (s : State) (p : Publisher) :
    (s.setPublisher p).pending = s.pending := rfl

/-! ### setPort -/

@[simp] theorem State.setPort_port (s : State) (p : Port) : (s.setPort p).port = p := rfl
@[simp] theorem State.setPort_mode (s : State) (p : Port) :
    (s.setPort p).mode = s.mode := rfl
@[simp] theorem State.setPort_time (s : State) (p : Port) :
    (s.setPort p).time = s.time := rfl
@[simp] theorem State.setPort_lines (s : State) (p : Port) :
    (s.setPort p).lines = s.lines := rfl
@[simp] theorem State.setPort_sense (s : State) (p : Port) :
    (s.setPort p).sense = s.sense := rfl
@[simp] theorem State.setPort_csN (s : State) (p : Port) :
    (s.setPort p).csN = s.csN := rfl
@[simp] theorem State.setPort_params (s : State) (p : Port) :
    (s.setPort p).params = s.params := rfl
@[simp] theorem State.setPort_roster (s : State) (p : Port) :
    (s.setPort p).roster = s.roster := rfl
@[simp] theorem State.setPort_accrual (s : State) (p : Port) :
    (s.setPort p).accrual = s.accrual := rfl
@[simp] theorem State.setPort_links (s : State) (p : Port) :
    (s.setPort p).links = s.links := rfl
@[simp] theorem State.setPort_downlinkSince (s : State) (p : Port) :
    (s.setPort p).downlinkSince = s.downlinkSince := rfl
@[simp] theorem State.setPort_intake (s : State) (p : Port) :
    (s.setPort p).intake = s.intake := rfl
@[simp] theorem State.setPort_matrix (s : State) (p : Port) :
    (s.setPort p).matrix = s.matrix := rfl
@[simp] theorem State.setPort_engine (s : State) (p : Port) :
    (s.setPort p).engine = s.engine := rfl
@[simp] theorem State.setPort_result (s : State) (p : Port) :
    (s.setPort p).result = s.result := rfl
@[simp] theorem State.setPort_tables (s : State) (p : Port) :
    (s.setPort p).tables = s.tables := rfl
@[simp] theorem State.setPort_publisher (s : State) (p : Port) :
    (s.setPort p).publisher = s.publisher := rfl
@[simp] theorem State.setPort_choices (s : State) (p : Port) :
    (s.setPort p).choices = s.choices := rfl
@[simp] theorem State.setPort_pending (s : State) (p : Port) :
    (s.setPort p).pending = s.pending := rfl

/-! ### setChoices -/

@[simp] theorem State.setChoices_choices (s : State) (n : Nat) : (s.setChoices n).choices = n := rfl
@[simp] theorem State.setChoices_mode (s : State) (n : Nat) :
    (s.setChoices n).mode = s.mode := rfl
@[simp] theorem State.setChoices_time (s : State) (n : Nat) :
    (s.setChoices n).time = s.time := rfl
@[simp] theorem State.setChoices_lines (s : State) (n : Nat) :
    (s.setChoices n).lines = s.lines := rfl
@[simp] theorem State.setChoices_sense (s : State) (n : Nat) :
    (s.setChoices n).sense = s.sense := rfl
@[simp] theorem State.setChoices_csN (s : State) (n : Nat) :
    (s.setChoices n).csN = s.csN := rfl
@[simp] theorem State.setChoices_params (s : State) (n : Nat) :
    (s.setChoices n).params = s.params := rfl
@[simp] theorem State.setChoices_roster (s : State) (n : Nat) :
    (s.setChoices n).roster = s.roster := rfl
@[simp] theorem State.setChoices_accrual (s : State) (n : Nat) :
    (s.setChoices n).accrual = s.accrual := rfl
@[simp] theorem State.setChoices_links (s : State) (n : Nat) :
    (s.setChoices n).links = s.links := rfl
@[simp] theorem State.setChoices_downlinkSince (s : State) (n : Nat) :
    (s.setChoices n).downlinkSince = s.downlinkSince := rfl
@[simp] theorem State.setChoices_intake (s : State) (n : Nat) :
    (s.setChoices n).intake = s.intake := rfl
@[simp] theorem State.setChoices_matrix (s : State) (n : Nat) :
    (s.setChoices n).matrix = s.matrix := rfl
@[simp] theorem State.setChoices_engine (s : State) (n : Nat) :
    (s.setChoices n).engine = s.engine := rfl
@[simp] theorem State.setChoices_result (s : State) (n : Nat) :
    (s.setChoices n).result = s.result := rfl
@[simp] theorem State.setChoices_tables (s : State) (n : Nat) :
    (s.setChoices n).tables = s.tables := rfl
@[simp] theorem State.setChoices_publisher (s : State) (n : Nat) :
    (s.setChoices n).publisher = s.publisher := rfl
@[simp] theorem State.setChoices_port (s : State) (n : Nat) :
    (s.setChoices n).port = s.port := rfl
@[simp] theorem State.setChoices_pending (s : State) (n : Nat) :
    (s.setChoices n).pending = s.pending := rfl

/-! ### setPending -/

@[simp] theorem State.setPending_pending (s : State) (q : List Instr) : (s.setPending q).pending = q := rfl
@[simp] theorem State.setPending_mode (s : State) (q : List Instr) :
    (s.setPending q).mode = s.mode := rfl
@[simp] theorem State.setPending_time (s : State) (q : List Instr) :
    (s.setPending q).time = s.time := rfl
@[simp] theorem State.setPending_lines (s : State) (q : List Instr) :
    (s.setPending q).lines = s.lines := rfl
@[simp] theorem State.setPending_sense (s : State) (q : List Instr) :
    (s.setPending q).sense = s.sense := rfl
@[simp] theorem State.setPending_csN (s : State) (q : List Instr) :
    (s.setPending q).csN = s.csN := rfl
@[simp] theorem State.setPending_params (s : State) (q : List Instr) :
    (s.setPending q).params = s.params := rfl
@[simp] theorem State.setPending_roster (s : State) (q : List Instr) :
    (s.setPending q).roster = s.roster := rfl
@[simp] theorem State.setPending_accrual (s : State) (q : List Instr) :
    (s.setPending q).accrual = s.accrual := rfl
@[simp] theorem State.setPending_links (s : State) (q : List Instr) :
    (s.setPending q).links = s.links := rfl
@[simp] theorem State.setPending_downlinkSince (s : State) (q : List Instr) :
    (s.setPending q).downlinkSince = s.downlinkSince := rfl
@[simp] theorem State.setPending_intake (s : State) (q : List Instr) :
    (s.setPending q).intake = s.intake := rfl
@[simp] theorem State.setPending_matrix (s : State) (q : List Instr) :
    (s.setPending q).matrix = s.matrix := rfl
@[simp] theorem State.setPending_engine (s : State) (q : List Instr) :
    (s.setPending q).engine = s.engine := rfl
@[simp] theorem State.setPending_result (s : State) (q : List Instr) :
    (s.setPending q).result = s.result := rfl
@[simp] theorem State.setPending_tables (s : State) (q : List Instr) :
    (s.setPending q).tables = s.tables := rfl
@[simp] theorem State.setPending_publisher (s : State) (q : List Instr) :
    (s.setPending q).publisher = s.publisher := rfl
@[simp] theorem State.setPending_port (s : State) (q : List Instr) :
    (s.setPending q).port = s.port := rfl
@[simp] theorem State.setPending_choices (s : State) (q : List Instr) :
    (s.setPending q).choices = s.choices := rfl

/-! ### setFlag -/

@[simp] theorem State.setFlag_mode (s : State) (f : Flag) : (s.setFlag f).mode = s.mode := rfl
@[simp] theorem State.setFlag_time (s : State) (f : Flag) : (s.setFlag f).time = s.time := rfl
@[simp] theorem State.setFlag_lines (s : State) (f : Flag) : (s.setFlag f).lines = s.lines := rfl
@[simp] theorem State.setFlag_sense (s : State) (f : Flag) : (s.setFlag f).sense = s.sense := rfl
@[simp] theorem State.setFlag_csN (s : State) (f : Flag) : (s.setFlag f).csN = s.csN := rfl
@[simp] theorem State.setFlag_params (s : State) (f : Flag) : (s.setFlag f).params = s.params := rfl
@[simp] theorem State.setFlag_roster (s : State) (f : Flag) : (s.setFlag f).roster = s.roster := rfl
@[simp] theorem State.setFlag_accrual (s : State) (f : Flag) : (s.setFlag f).accrual = s.accrual := rfl
@[simp] theorem State.setFlag_links (s : State) (f : Flag) : (s.setFlag f).links = s.links := rfl
@[simp] theorem State.setFlag_downlinkSince (s : State) (f : Flag) : (s.setFlag f).downlinkSince = s.downlinkSince :=
    rfl
@[simp] theorem State.setFlag_intake (s : State) (f : Flag) : (s.setFlag f).intake = s.intake := rfl
@[simp] theorem State.setFlag_matrix (s : State) (f : Flag) : (s.setFlag f).matrix = s.matrix := rfl
@[simp] theorem State.setFlag_engine (s : State) (f : Flag) : (s.setFlag f).engine = s.engine := rfl
@[simp] theorem State.setFlag_result (s : State) (f : Flag) : (s.setFlag f).result = s.result := rfl
@[simp] theorem State.setFlag_tables (s : State) (f : Flag) : (s.setFlag f).tables = s.tables := rfl
@[simp] theorem State.setFlag_publisher (s : State) (f : Flag) : (s.setFlag f).publisher = s.publisher := rfl
@[simp] theorem State.setFlag_choices (s : State) (f : Flag) : (s.setFlag f).choices = s.choices := rfl
@[simp] theorem State.setFlag_pending (s : State) (f : Flag) : (s.setFlag f).pending = s.pending := rfl

/-! ### setRecord -/

@[simp] theorem State.setRecord_mode (s : State) (p : Pos) (r : Record) : (s.setRecord p r).mode = s.mode :=
    rfl
@[simp] theorem State.setRecord_time (s : State) (p : Pos) (r : Record) : (s.setRecord p r).time = s.time :=
    rfl
@[simp] theorem State.setRecord_lines (s : State) (p : Pos) (r : Record) : (s.setRecord p r).lines = s.lines :=
    rfl
@[simp] theorem State.setRecord_sense (s : State) (p : Pos) (r : Record) : (s.setRecord p r).sense = s.sense :=
    rfl
@[simp] theorem State.setRecord_csN (s : State) (p : Pos) (r : Record) : (s.setRecord p r).csN = s.csN := rfl
@[simp] theorem State.setRecord_params (s : State) (p : Pos) (r : Record) : (s.setRecord p r).params = s.params :=
    rfl
@[simp] theorem State.setRecord_accrual (s : State) (p : Pos) (r : Record) : (s.setRecord p r).accrual = s.accrual :=
    rfl
@[simp] theorem State.setRecord_links (s : State) (p : Pos) (r : Record) : (s.setRecord p r).links = s.links :=
    rfl
@[simp] theorem State.setRecord_downlinkSince (s : State) (p : Pos) (r : Record) : (s.setRecord p r).downlinkSince = s.downlinkSince :=
    rfl
@[simp] theorem State.setRecord_intake (s : State) (p : Pos) (r : Record) : (s.setRecord p r).intake = s.intake :=
    rfl
@[simp] theorem State.setRecord_matrix (s : State) (p : Pos) (r : Record) : (s.setRecord p r).matrix = s.matrix :=
    rfl
@[simp] theorem State.setRecord_engine (s : State) (p : Pos) (r : Record) : (s.setRecord p r).engine = s.engine :=
    rfl
@[simp] theorem State.setRecord_result (s : State) (p : Pos) (r : Record) : (s.setRecord p r).result = s.result :=
    rfl
@[simp] theorem State.setRecord_tables (s : State) (p : Pos) (r : Record) : (s.setRecord p r).tables = s.tables :=
    rfl
@[simp] theorem State.setRecord_publisher (s : State) (p : Pos) (r : Record) : (s.setRecord p r).publisher = s.publisher :=
    rfl
@[simp] theorem State.setRecord_port (s : State) (p : Pos) (r : Record) : (s.setRecord p r).port = s.port :=
    rfl
@[simp] theorem State.setRecord_choices (s : State) (p : Pos) (r : Record) : (s.setRecord p r).choices = s.choices :=
    rfl
@[simp] theorem State.setRecord_pending (s : State) (p : Pos) (r : Record) : (s.setRecord p r).pending = s.pending :=
    rfl

/-! ### mapRecords -/

@[simp] theorem State.mapRecords_mode (s : State) (f : Pos → Record → Record) : (s.mapRecords f).mode = s.mode :=
    by simp only [State.mapRecords, State.setRoster]
@[simp] theorem State.mapRecords_time (s : State) (f : Pos → Record → Record) : (s.mapRecords f).time = s.time :=
    by simp only [State.mapRecords, State.setRoster]
@[simp] theorem State.mapRecords_lines (s : State) (f : Pos → Record → Record) : (s.mapRecords f).lines = s.lines :=
    by simp only [State.mapRecords, State.setRoster]
@[simp] theorem State.mapRecords_sense (s : State) (f : Pos → Record → Record) : (s.mapRecords f).sense = s.sense :=
    by simp only [State.mapRecords, State.setRoster]
@[simp] theorem State.mapRecords_csN (s : State) (f : Pos → Record → Record) : (s.mapRecords f).csN = s.csN :=
    by simp only [State.mapRecords, State.setRoster]
@[simp] theorem State.mapRecords_params (s : State) (f : Pos → Record → Record) : (s.mapRecords f).params = s.params :=
    by simp only [State.mapRecords, State.setRoster]
@[simp] theorem State.mapRecords_accrual (s : State) (f : Pos → Record → Record) : (s.mapRecords f).accrual = s.accrual :=
    by simp only [State.mapRecords, State.setRoster]
@[simp] theorem State.mapRecords_links (s : State) (f : Pos → Record → Record) : (s.mapRecords f).links = s.links :=
    by simp only [State.mapRecords, State.setRoster]
@[simp] theorem State.mapRecords_downlinkSince (s : State) (f : Pos → Record → Record) : (s.mapRecords f).downlinkSince = s.downlinkSince :=
    by simp only [State.mapRecords, State.setRoster]
@[simp] theorem State.mapRecords_intake (s : State) (f : Pos → Record → Record) : (s.mapRecords f).intake = s.intake :=
    by simp only [State.mapRecords, State.setRoster]
@[simp] theorem State.mapRecords_matrix (s : State) (f : Pos → Record → Record) : (s.mapRecords f).matrix = s.matrix :=
    by simp only [State.mapRecords, State.setRoster]
@[simp] theorem State.mapRecords_engine (s : State) (f : Pos → Record → Record) : (s.mapRecords f).engine = s.engine :=
    by simp only [State.mapRecords, State.setRoster]
@[simp] theorem State.mapRecords_result (s : State) (f : Pos → Record → Record) : (s.mapRecords f).result = s.result :=
    by simp only [State.mapRecords, State.setRoster]
@[simp] theorem State.mapRecords_tables (s : State) (f : Pos → Record → Record) : (s.mapRecords f).tables = s.tables :=
    by simp only [State.mapRecords, State.setRoster]
@[simp] theorem State.mapRecords_publisher (s : State) (f : Pos → Record → Record) : (s.mapRecords f).publisher = s.publisher :=
    by simp only [State.mapRecords, State.setRoster]
@[simp] theorem State.mapRecords_port (s : State) (f : Pos → Record → Record) : (s.mapRecords f).port = s.port :=
    by simp only [State.mapRecords, State.setRoster]
@[simp] theorem State.mapRecords_choices (s : State) (f : Pos → Record → Record) : (s.mapRecords f).choices = s.choices :=
    by simp only [State.mapRecords, State.setRoster]
@[simp] theorem State.mapRecords_pending (s : State) (f : Pos → Record → Record) : (s.mapRecords f).pending = s.pending :=
    by simp only [State.mapRecords, State.setRoster]

/-! ### closeCompletion -/

@[simp] theorem State.closeCompletion_mode (s : State) (p : Pos) : (s.closeCompletion p).mode = s.mode := rfl
@[simp] theorem State.closeCompletion_time (s : State) (p : Pos) : (s.closeCompletion p).time = s.time := rfl
@[simp] theorem State.closeCompletion_lines (s : State) (p : Pos) : (s.closeCompletion p).lines = s.lines :=
    rfl
@[simp] theorem State.closeCompletion_sense (s : State) (p : Pos) : (s.closeCompletion p).sense = s.sense :=
    rfl
@[simp] theorem State.closeCompletion_csN (s : State) (p : Pos) : (s.closeCompletion p).csN = s.csN := rfl
@[simp] theorem State.closeCompletion_params (s : State) (p : Pos) : (s.closeCompletion p).params = s.params :=
    rfl
@[simp] theorem State.closeCompletion_accrual (s : State) (p : Pos) : (s.closeCompletion p).accrual = s.accrual :=
    rfl
@[simp] theorem State.closeCompletion_links (s : State) (p : Pos) : (s.closeCompletion p).links = s.links :=
    rfl
@[simp] theorem State.closeCompletion_downlinkSince (s : State) (p : Pos) : (s.closeCompletion p).downlinkSince = s.downlinkSince :=
    rfl
@[simp] theorem State.closeCompletion_intake (s : State) (p : Pos) : (s.closeCompletion p).intake = s.intake :=
    rfl
@[simp] theorem State.closeCompletion_matrix (s : State) (p : Pos) : (s.closeCompletion p).matrix = s.matrix :=
    rfl
@[simp] theorem State.closeCompletion_engine (s : State) (p : Pos) : (s.closeCompletion p).engine = s.engine :=
    rfl
@[simp] theorem State.closeCompletion_result (s : State) (p : Pos) : (s.closeCompletion p).result = s.result :=
    rfl
@[simp] theorem State.closeCompletion_tables (s : State) (p : Pos) : (s.closeCompletion p).tables = s.tables :=
    rfl
@[simp] theorem State.closeCompletion_publisher (s : State) (p : Pos) : (s.closeCompletion p).publisher = s.publisher :=
    rfl
@[simp] theorem State.closeCompletion_port (s : State) (p : Pos) : (s.closeCompletion p).port = s.port := rfl
@[simp] theorem State.closeCompletion_choices (s : State) (p : Pos) : (s.closeCompletion p).choices = s.choices :=
    rfl
@[simp] theorem State.closeCompletion_pending (s : State) (p : Pos) : (s.closeCompletion p).pending = s.pending :=
    rfl

/-! ### commitRoster -/

@[simp] theorem State.commitRoster_mode (s : State) (l : List Pos) : (s.commitRoster l).mode = s.mode :=
    by simp only [State.commitRoster, State.mapRecords, State.setRoster]
@[simp] theorem State.commitRoster_time (s : State) (l : List Pos) : (s.commitRoster l).time = s.time :=
    by simp only [State.commitRoster, State.mapRecords, State.setRoster]
@[simp] theorem State.commitRoster_lines (s : State) (l : List Pos) : (s.commitRoster l).lines = s.lines :=
    by simp only [State.commitRoster, State.mapRecords, State.setRoster]
@[simp] theorem State.commitRoster_sense (s : State) (l : List Pos) : (s.commitRoster l).sense = s.sense :=
    by simp only [State.commitRoster, State.mapRecords, State.setRoster]
@[simp] theorem State.commitRoster_csN (s : State) (l : List Pos) : (s.commitRoster l).csN = s.csN :=
    by simp only [State.commitRoster, State.mapRecords, State.setRoster]
@[simp] theorem State.commitRoster_params (s : State) (l : List Pos) : (s.commitRoster l).params = s.params :=
    by simp only [State.commitRoster, State.mapRecords, State.setRoster]
@[simp] theorem State.commitRoster_accrual (s : State) (l : List Pos) : (s.commitRoster l).accrual = s.accrual :=
    by simp only [State.commitRoster, State.mapRecords, State.setRoster]
@[simp] theorem State.commitRoster_links (s : State) (l : List Pos) : (s.commitRoster l).links = s.links :=
    by simp only [State.commitRoster, State.mapRecords, State.setRoster]
@[simp] theorem State.commitRoster_downlinkSince (s : State) (l : List Pos) : (s.commitRoster l).downlinkSince = s.downlinkSince :=
    by simp only [State.commitRoster, State.mapRecords, State.setRoster]
@[simp] theorem State.commitRoster_intake (s : State) (l : List Pos) : (s.commitRoster l).intake = s.intake :=
    by simp only [State.commitRoster, State.mapRecords, State.setRoster]
@[simp] theorem State.commitRoster_matrix (s : State) (l : List Pos) : (s.commitRoster l).matrix = s.matrix :=
    by simp only [State.commitRoster, State.mapRecords, State.setRoster]
@[simp] theorem State.commitRoster_engine (s : State) (l : List Pos) : (s.commitRoster l).engine = s.engine :=
    by simp only [State.commitRoster, State.mapRecords, State.setRoster]
@[simp] theorem State.commitRoster_result (s : State) (l : List Pos) : (s.commitRoster l).result = s.result :=
    by simp only [State.commitRoster, State.mapRecords, State.setRoster]
@[simp] theorem State.commitRoster_tables (s : State) (l : List Pos) : (s.commitRoster l).tables = s.tables :=
    by simp only [State.commitRoster, State.mapRecords, State.setRoster]
@[simp] theorem State.commitRoster_publisher (s : State) (l : List Pos) : (s.commitRoster l).publisher = s.publisher :=
    by simp only [State.commitRoster, State.mapRecords, State.setRoster]
@[simp] theorem State.commitRoster_port (s : State) (l : List Pos) : (s.commitRoster l).port = s.port :=
    by simp only [State.commitRoster, State.mapRecords, State.setRoster]
@[simp] theorem State.commitRoster_choices (s : State) (l : List Pos) : (s.commitRoster l).choices = s.choices :=
    by simp only [State.commitRoster, State.mapRecords, State.setRoster]
@[simp] theorem State.commitRoster_pending (s : State) (l : List Pos) : (s.commitRoster l).pending = s.pending :=
    by simp only [State.commitRoster, State.mapRecords, State.setRoster]

/-! ### clearRun -/

@[simp] theorem State.clearRun_mode (s : State) (p : Pos) : (s.clearRun p).mode = s.mode := rfl
@[simp] theorem State.clearRun_time (s : State) (p : Pos) : (s.clearRun p).time = s.time := rfl
@[simp] theorem State.clearRun_lines (s : State) (p : Pos) : (s.clearRun p).lines = s.lines := rfl
@[simp] theorem State.clearRun_sense (s : State) (p : Pos) : (s.clearRun p).sense = s.sense := rfl
@[simp] theorem State.clearRun_csN (s : State) (p : Pos) : (s.clearRun p).csN = s.csN := rfl
@[simp] theorem State.clearRun_params (s : State) (p : Pos) : (s.clearRun p).params = s.params := rfl
@[simp] theorem State.clearRun_accrual (s : State) (p : Pos) : (s.clearRun p).accrual = s.accrual := rfl
@[simp] theorem State.clearRun_links (s : State) (p : Pos) : (s.clearRun p).links = s.links := rfl
@[simp] theorem State.clearRun_downlinkSince (s : State) (p : Pos) : (s.clearRun p).downlinkSince = s.downlinkSince :=
    rfl
@[simp] theorem State.clearRun_intake (s : State) (p : Pos) : (s.clearRun p).intake = s.intake := rfl
@[simp] theorem State.clearRun_matrix (s : State) (p : Pos) : (s.clearRun p).matrix = s.matrix := rfl
@[simp] theorem State.clearRun_engine (s : State) (p : Pos) : (s.clearRun p).engine = s.engine := rfl
@[simp] theorem State.clearRun_result (s : State) (p : Pos) : (s.clearRun p).result = s.result := rfl
@[simp] theorem State.clearRun_tables (s : State) (p : Pos) : (s.clearRun p).tables = s.tables := rfl
@[simp] theorem State.clearRun_publisher (s : State) (p : Pos) : (s.clearRun p).publisher = s.publisher := rfl
@[simp] theorem State.clearRun_port (s : State) (p : Pos) : (s.clearRun p).port = s.port := rfl
@[simp] theorem State.clearRun_choices (s : State) (p : Pos) : (s.clearRun p).choices = s.choices := rfl
@[simp] theorem State.clearRun_pending (s : State) (p : Pos) : (s.clearRun p).pending = s.pending := rfl

/-! ### setLink -/

@[simp] theorem State.setLink_mode (s : State) (ch : Chan) (l : Link) : (s.setLink ch l).mode = s.mode := rfl
@[simp] theorem State.setLink_time (s : State) (ch : Chan) (l : Link) : (s.setLink ch l).time = s.time := rfl
@[simp] theorem State.setLink_lines (s : State) (ch : Chan) (l : Link) : (s.setLink ch l).lines = s.lines :=
    rfl
@[simp] theorem State.setLink_sense (s : State) (ch : Chan) (l : Link) : (s.setLink ch l).sense = s.sense :=
    rfl
@[simp] theorem State.setLink_csN (s : State) (ch : Chan) (l : Link) : (s.setLink ch l).csN = s.csN := rfl
@[simp] theorem State.setLink_params (s : State) (ch : Chan) (l : Link) : (s.setLink ch l).params = s.params :=
    rfl
@[simp] theorem State.setLink_roster (s : State) (ch : Chan) (l : Link) : (s.setLink ch l).roster = s.roster :=
    rfl
@[simp] theorem State.setLink_accrual (s : State) (ch : Chan) (l : Link) : (s.setLink ch l).accrual = s.accrual :=
    rfl
@[simp] theorem State.setLink_downlinkSince (s : State) (ch : Chan) (l : Link) : (s.setLink ch l).downlinkSince = s.downlinkSince :=
    rfl
@[simp] theorem State.setLink_intake (s : State) (ch : Chan) (l : Link) : (s.setLink ch l).intake = s.intake :=
    rfl
@[simp] theorem State.setLink_matrix (s : State) (ch : Chan) (l : Link) : (s.setLink ch l).matrix = s.matrix :=
    rfl
@[simp] theorem State.setLink_engine (s : State) (ch : Chan) (l : Link) : (s.setLink ch l).engine = s.engine :=
    rfl
@[simp] theorem State.setLink_result (s : State) (ch : Chan) (l : Link) : (s.setLink ch l).result = s.result :=
    rfl
@[simp] theorem State.setLink_tables (s : State) (ch : Chan) (l : Link) : (s.setLink ch l).tables = s.tables :=
    rfl
@[simp] theorem State.setLink_publisher (s : State) (ch : Chan) (l : Link) : (s.setLink ch l).publisher = s.publisher :=
    rfl
@[simp] theorem State.setLink_port (s : State) (ch : Chan) (l : Link) : (s.setLink ch l).port = s.port := rfl
@[simp] theorem State.setLink_choices (s : State) (ch : Chan) (l : Link) : (s.setLink ch l).choices = s.choices :=
    rfl
@[simp] theorem State.setLink_pending (s : State) (ch : Chan) (l : Link) : (s.setLink ch l).pending = s.pending :=
    rfl

/-! ### setRx -/

@[simp] theorem State.setRx_mode (s : State) (ch : Chan) (r : Receiver) : (s.setRx ch r).mode = s.mode := rfl
@[simp] theorem State.setRx_time (s : State) (ch : Chan) (r : Receiver) : (s.setRx ch r).time = s.time := rfl
@[simp] theorem State.setRx_lines (s : State) (ch : Chan) (r : Receiver) : (s.setRx ch r).lines = s.lines :=
    rfl
@[simp] theorem State.setRx_sense (s : State) (ch : Chan) (r : Receiver) : (s.setRx ch r).sense = s.sense :=
    rfl
@[simp] theorem State.setRx_csN (s : State) (ch : Chan) (r : Receiver) : (s.setRx ch r).csN = s.csN := rfl
@[simp] theorem State.setRx_params (s : State) (ch : Chan) (r : Receiver) : (s.setRx ch r).params = s.params :=
    rfl
@[simp] theorem State.setRx_roster (s : State) (ch : Chan) (r : Receiver) : (s.setRx ch r).roster = s.roster :=
    rfl
@[simp] theorem State.setRx_accrual (s : State) (ch : Chan) (r : Receiver) : (s.setRx ch r).accrual = s.accrual :=
    rfl
@[simp] theorem State.setRx_downlinkSince (s : State) (ch : Chan) (r : Receiver) : (s.setRx ch r).downlinkSince = s.downlinkSince :=
    rfl
@[simp] theorem State.setRx_intake (s : State) (ch : Chan) (r : Receiver) : (s.setRx ch r).intake = s.intake :=
    rfl
@[simp] theorem State.setRx_matrix (s : State) (ch : Chan) (r : Receiver) : (s.setRx ch r).matrix = s.matrix :=
    rfl
@[simp] theorem State.setRx_engine (s : State) (ch : Chan) (r : Receiver) : (s.setRx ch r).engine = s.engine :=
    rfl
@[simp] theorem State.setRx_result (s : State) (ch : Chan) (r : Receiver) : (s.setRx ch r).result = s.result :=
    rfl
@[simp] theorem State.setRx_tables (s : State) (ch : Chan) (r : Receiver) : (s.setRx ch r).tables = s.tables :=
    rfl
@[simp] theorem State.setRx_publisher (s : State) (ch : Chan) (r : Receiver) : (s.setRx ch r).publisher = s.publisher :=
    rfl
@[simp] theorem State.setRx_port (s : State) (ch : Chan) (r : Receiver) : (s.setRx ch r).port = s.port := rfl
@[simp] theorem State.setRx_choices (s : State) (ch : Chan) (r : Receiver) : (s.setRx ch r).choices = s.choices :=
    rfl
@[simp] theorem State.setRx_pending (s : State) (ch : Chan) (r : Receiver) : (s.setRx ch r).pending = s.pending :=
    rfl

/-! ### setTx -/

@[simp] theorem State.setTx_mode (s : State) (ch : Chan) (t : Transmitter) : (s.setTx ch t).mode = s.mode :=
    rfl
@[simp] theorem State.setTx_time (s : State) (ch : Chan) (t : Transmitter) : (s.setTx ch t).time = s.time :=
    rfl
@[simp] theorem State.setTx_lines (s : State) (ch : Chan) (t : Transmitter) : (s.setTx ch t).lines = s.lines :=
    rfl
@[simp] theorem State.setTx_sense (s : State) (ch : Chan) (t : Transmitter) : (s.setTx ch t).sense = s.sense :=
    rfl
@[simp] theorem State.setTx_csN (s : State) (ch : Chan) (t : Transmitter) : (s.setTx ch t).csN = s.csN := rfl
@[simp] theorem State.setTx_params (s : State) (ch : Chan) (t : Transmitter) : (s.setTx ch t).params = s.params :=
    rfl
@[simp] theorem State.setTx_roster (s : State) (ch : Chan) (t : Transmitter) : (s.setTx ch t).roster = s.roster :=
    rfl
@[simp] theorem State.setTx_accrual (s : State) (ch : Chan) (t : Transmitter) : (s.setTx ch t).accrual = s.accrual :=
    rfl
@[simp] theorem State.setTx_downlinkSince (s : State) (ch : Chan) (t : Transmitter) : (s.setTx ch t).downlinkSince = s.downlinkSince :=
    rfl
@[simp] theorem State.setTx_intake (s : State) (ch : Chan) (t : Transmitter) : (s.setTx ch t).intake = s.intake :=
    rfl
@[simp] theorem State.setTx_matrix (s : State) (ch : Chan) (t : Transmitter) : (s.setTx ch t).matrix = s.matrix :=
    rfl
@[simp] theorem State.setTx_engine (s : State) (ch : Chan) (t : Transmitter) : (s.setTx ch t).engine = s.engine :=
    rfl
@[simp] theorem State.setTx_result (s : State) (ch : Chan) (t : Transmitter) : (s.setTx ch t).result = s.result :=
    rfl
@[simp] theorem State.setTx_tables (s : State) (ch : Chan) (t : Transmitter) : (s.setTx ch t).tables = s.tables :=
    rfl
@[simp] theorem State.setTx_publisher (s : State) (ch : Chan) (t : Transmitter) : (s.setTx ch t).publisher = s.publisher :=
    rfl
@[simp] theorem State.setTx_port (s : State) (ch : Chan) (t : Transmitter) : (s.setTx ch t).port = s.port :=
    rfl
@[simp] theorem State.setTx_choices (s : State) (ch : Chan) (t : Transmitter) : (s.setTx ch t).choices = s.choices :=
    rfl
@[simp] theorem State.setTx_pending (s : State) (ch : Chan) (t : Transmitter) : (s.setTx ch t).pending = s.pending :=
    rfl

/-! ### setFraming -/

@[simp] theorem State.setFraming_mode (s : State) (ch : Chan) (f : Option OpenFrame) : (s.setFraming ch f).mode = s.mode :=
    rfl
@[simp] theorem State.setFraming_time (s : State) (ch : Chan) (f : Option OpenFrame) : (s.setFraming ch f).time = s.time :=
    rfl
@[simp] theorem State.setFraming_lines (s : State) (ch : Chan) (f : Option OpenFrame) : (s.setFraming ch f).lines = s.lines :=
    rfl
@[simp] theorem State.setFraming_sense (s : State) (ch : Chan) (f : Option OpenFrame) : (s.setFraming ch f).sense = s.sense :=
    rfl
@[simp] theorem State.setFraming_csN (s : State) (ch : Chan) (f : Option OpenFrame) : (s.setFraming ch f).csN = s.csN :=
    rfl
@[simp] theorem State.setFraming_params (s : State) (ch : Chan) (f : Option OpenFrame) : (s.setFraming ch f).params = s.params :=
    rfl
@[simp] theorem State.setFraming_roster (s : State) (ch : Chan) (f : Option OpenFrame) : (s.setFraming ch f).roster = s.roster :=
    rfl
@[simp] theorem State.setFraming_accrual (s : State) (ch : Chan) (f : Option OpenFrame) : (s.setFraming ch f).accrual = s.accrual :=
    rfl
@[simp] theorem State.setFraming_downlinkSince (s : State) (ch : Chan) (f : Option OpenFrame) : (s.setFraming ch f).downlinkSince = s.downlinkSince :=
    rfl
@[simp] theorem State.setFraming_intake (s : State) (ch : Chan) (f : Option OpenFrame) : (s.setFraming ch f).intake = s.intake :=
    rfl
@[simp] theorem State.setFraming_matrix (s : State) (ch : Chan) (f : Option OpenFrame) : (s.setFraming ch f).matrix = s.matrix :=
    rfl
@[simp] theorem State.setFraming_engine (s : State) (ch : Chan) (f : Option OpenFrame) : (s.setFraming ch f).engine = s.engine :=
    rfl
@[simp] theorem State.setFraming_result (s : State) (ch : Chan) (f : Option OpenFrame) : (s.setFraming ch f).result = s.result :=
    rfl
@[simp] theorem State.setFraming_tables (s : State) (ch : Chan) (f : Option OpenFrame) : (s.setFraming ch f).tables = s.tables :=
    rfl
@[simp] theorem State.setFraming_publisher (s : State) (ch : Chan) (f : Option OpenFrame) : (s.setFraming ch f).publisher = s.publisher :=
    rfl
@[simp] theorem State.setFraming_port (s : State) (ch : Chan) (f : Option OpenFrame) : (s.setFraming ch f).port = s.port :=
    rfl
@[simp] theorem State.setFraming_choices (s : State) (ch : Chan) (f : Option OpenFrame) : (s.setFraming ch f).choices = s.choices :=
    rfl
@[simp] theorem State.setFraming_pending (s : State) (ch : Chan) (f : Option OpenFrame) : (s.setFraming ch f).pending = s.pending :=
    rfl

/-! ### clearFaultReset -/

@[simp] theorem State.clearFaultReset_mode (s : State) (ch : Chan) : (s.clearFaultReset ch).mode = s.mode :=
    rfl
@[simp] theorem State.clearFaultReset_time (s : State) (ch : Chan) : (s.clearFaultReset ch).time = s.time :=
    rfl
@[simp] theorem State.clearFaultReset_lines (s : State) (ch : Chan) : (s.clearFaultReset ch).lines = s.lines :=
    rfl
@[simp] theorem State.clearFaultReset_sense (s : State) (ch : Chan) : (s.clearFaultReset ch).sense = s.sense :=
    rfl
@[simp] theorem State.clearFaultReset_csN (s : State) (ch : Chan) : (s.clearFaultReset ch).csN = s.csN := rfl
@[simp] theorem State.clearFaultReset_params (s : State) (ch : Chan) : (s.clearFaultReset ch).params = s.params :=
    rfl
@[simp] theorem State.clearFaultReset_roster (s : State) (ch : Chan) : (s.clearFaultReset ch).roster = s.roster :=
    rfl
@[simp] theorem State.clearFaultReset_accrual (s : State) (ch : Chan) : (s.clearFaultReset ch).accrual = s.accrual :=
    rfl
@[simp] theorem State.clearFaultReset_downlinkSince (s : State) (ch : Chan) : (s.clearFaultReset ch).downlinkSince = s.downlinkSince :=
    rfl
@[simp] theorem State.clearFaultReset_intake (s : State) (ch : Chan) : (s.clearFaultReset ch).intake = s.intake :=
    rfl
@[simp] theorem State.clearFaultReset_matrix (s : State) (ch : Chan) : (s.clearFaultReset ch).matrix = s.matrix :=
    rfl
@[simp] theorem State.clearFaultReset_engine (s : State) (ch : Chan) : (s.clearFaultReset ch).engine = s.engine :=
    rfl
@[simp] theorem State.clearFaultReset_result (s : State) (ch : Chan) : (s.clearFaultReset ch).result = s.result :=
    rfl
@[simp] theorem State.clearFaultReset_tables (s : State) (ch : Chan) : (s.clearFaultReset ch).tables = s.tables :=
    rfl
@[simp] theorem State.clearFaultReset_publisher (s : State) (ch : Chan) : (s.clearFaultReset ch).publisher = s.publisher :=
    rfl
@[simp] theorem State.clearFaultReset_port (s : State) (ch : Chan) : (s.clearFaultReset ch).port = s.port :=
    rfl
@[simp] theorem State.clearFaultReset_choices (s : State) (ch : Chan) : (s.clearFaultReset ch).choices = s.choices :=
    rfl
@[simp] theorem State.clearFaultReset_pending (s : State) (ch : Chan) : (s.clearFaultReset ch).pending = s.pending :=
    rfl

/-! ### setOrders -/

@[simp] theorem State.setOrders_mode (s : State) (l : List Entry) : (s.setOrders l).mode = s.mode := rfl
@[simp] theorem State.setOrders_time (s : State) (l : List Entry) : (s.setOrders l).time = s.time := rfl
@[simp] theorem State.setOrders_lines (s : State) (l : List Entry) : (s.setOrders l).lines = s.lines := rfl
@[simp] theorem State.setOrders_sense (s : State) (l : List Entry) : (s.setOrders l).sense = s.sense := rfl
@[simp] theorem State.setOrders_csN (s : State) (l : List Entry) : (s.setOrders l).csN = s.csN := rfl
@[simp] theorem State.setOrders_params (s : State) (l : List Entry) : (s.setOrders l).params = s.params := rfl
@[simp] theorem State.setOrders_roster (s : State) (l : List Entry) : (s.setOrders l).roster = s.roster := rfl
@[simp] theorem State.setOrders_accrual (s : State) (l : List Entry) : (s.setOrders l).accrual = s.accrual :=
    rfl
@[simp] theorem State.setOrders_links (s : State) (l : List Entry) : (s.setOrders l).links = s.links := rfl
@[simp] theorem State.setOrders_downlinkSince (s : State) (l : List Entry) : (s.setOrders l).downlinkSince = s.downlinkSince :=
    rfl
@[simp] theorem State.setOrders_intake (s : State) (l : List Entry) : (s.setOrders l).intake = s.intake := rfl
@[simp] theorem State.setOrders_engine (s : State) (l : List Entry) : (s.setOrders l).engine = s.engine := rfl
@[simp] theorem State.setOrders_result (s : State) (l : List Entry) : (s.setOrders l).result = s.result := rfl
@[simp] theorem State.setOrders_tables (s : State) (l : List Entry) : (s.setOrders l).tables = s.tables := rfl
@[simp] theorem State.setOrders_publisher (s : State) (l : List Entry) : (s.setOrders l).publisher = s.publisher :=
    rfl
@[simp] theorem State.setOrders_port (s : State) (l : List Entry) : (s.setOrders l).port = s.port := rfl
@[simp] theorem State.setOrders_choices (s : State) (l : List Entry) : (s.setOrders l).choices = s.choices :=
    rfl
@[simp] theorem State.setOrders_pending (s : State) (l : List Entry) : (s.setOrders l).pending = s.pending :=
    rfl

/-! ### setUnit -/

@[simp] theorem State.setUnit_mode (s : State) (u : FiringUnit) : (s.setUnit u).mode = s.mode := rfl
@[simp] theorem State.setUnit_time (s : State) (u : FiringUnit) : (s.setUnit u).time = s.time := rfl
@[simp] theorem State.setUnit_lines (s : State) (u : FiringUnit) : (s.setUnit u).lines = s.lines := rfl
@[simp] theorem State.setUnit_sense (s : State) (u : FiringUnit) : (s.setUnit u).sense = s.sense := rfl
@[simp] theorem State.setUnit_csN (s : State) (u : FiringUnit) : (s.setUnit u).csN = s.csN := rfl
@[simp] theorem State.setUnit_params (s : State) (u : FiringUnit) : (s.setUnit u).params = s.params := rfl
@[simp] theorem State.setUnit_roster (s : State) (u : FiringUnit) : (s.setUnit u).roster = s.roster := rfl
@[simp] theorem State.setUnit_accrual (s : State) (u : FiringUnit) : (s.setUnit u).accrual = s.accrual := rfl
@[simp] theorem State.setUnit_links (s : State) (u : FiringUnit) : (s.setUnit u).links = s.links := rfl
@[simp] theorem State.setUnit_downlinkSince (s : State) (u : FiringUnit) : (s.setUnit u).downlinkSince = s.downlinkSince :=
    rfl
@[simp] theorem State.setUnit_intake (s : State) (u : FiringUnit) : (s.setUnit u).intake = s.intake := rfl
@[simp] theorem State.setUnit_engine (s : State) (u : FiringUnit) : (s.setUnit u).engine = s.engine := rfl
@[simp] theorem State.setUnit_result (s : State) (u : FiringUnit) : (s.setUnit u).result = s.result := rfl
@[simp] theorem State.setUnit_tables (s : State) (u : FiringUnit) : (s.setUnit u).tables = s.tables := rfl
@[simp] theorem State.setUnit_publisher (s : State) (u : FiringUnit) : (s.setUnit u).publisher = s.publisher :=
    rfl
@[simp] theorem State.setUnit_port (s : State) (u : FiringUnit) : (s.setUnit u).port = s.port := rfl
@[simp] theorem State.setUnit_choices (s : State) (u : FiringUnit) : (s.setUnit u).choices = s.choices := rfl
@[simp] theorem State.setUnit_pending (s : State) (u : FiringUnit) : (s.setUnit u).pending = s.pending := rfl

/-! ### setDebounce -/

@[simp] theorem State.setDebounce_mode (s : State) (p : Pos) (d : Debounce) : (s.setDebounce p d).mode = s.mode :=
    rfl
@[simp] theorem State.setDebounce_time (s : State) (p : Pos) (d : Debounce) : (s.setDebounce p d).time = s.time :=
    rfl
@[simp] theorem State.setDebounce_lines (s : State) (p : Pos) (d : Debounce) : (s.setDebounce p d).lines = s.lines :=
    rfl
@[simp] theorem State.setDebounce_sense (s : State) (p : Pos) (d : Debounce) : (s.setDebounce p d).sense = s.sense :=
    rfl
@[simp] theorem State.setDebounce_csN (s : State) (p : Pos) (d : Debounce) : (s.setDebounce p d).csN = s.csN :=
    rfl
@[simp] theorem State.setDebounce_params (s : State) (p : Pos) (d : Debounce) : (s.setDebounce p d).params = s.params :=
    rfl
@[simp] theorem State.setDebounce_roster (s : State) (p : Pos) (d : Debounce) : (s.setDebounce p d).roster = s.roster :=
    rfl
@[simp] theorem State.setDebounce_accrual (s : State) (p : Pos) (d : Debounce) : (s.setDebounce p d).accrual = s.accrual :=
    rfl
@[simp] theorem State.setDebounce_links (s : State) (p : Pos) (d : Debounce) : (s.setDebounce p d).links = s.links :=
    rfl
@[simp] theorem State.setDebounce_downlinkSince (s : State) (p : Pos) (d : Debounce) : (s.setDebounce p d).downlinkSince = s.downlinkSince :=
    rfl
@[simp] theorem State.setDebounce_intake (s : State) (p : Pos) (d : Debounce) : (s.setDebounce p d).intake = s.intake :=
    rfl
@[simp] theorem State.setDebounce_engine (s : State) (p : Pos) (d : Debounce) : (s.setDebounce p d).engine = s.engine :=
    rfl
@[simp] theorem State.setDebounce_result (s : State) (p : Pos) (d : Debounce) : (s.setDebounce p d).result = s.result :=
    rfl
@[simp] theorem State.setDebounce_tables (s : State) (p : Pos) (d : Debounce) : (s.setDebounce p d).tables = s.tables :=
    rfl
@[simp] theorem State.setDebounce_publisher (s : State) (p : Pos) (d : Debounce) : (s.setDebounce p d).publisher = s.publisher :=
    rfl
@[simp] theorem State.setDebounce_port (s : State) (p : Pos) (d : Debounce) : (s.setDebounce p d).port = s.port :=
    rfl
@[simp] theorem State.setDebounce_choices (s : State) (p : Pos) (d : Debounce) : (s.setDebounce p d).choices = s.choices :=
    rfl
@[simp] theorem State.setDebounce_pending (s : State) (p : Pos) (d : Debounce) : (s.setDebounce p d).pending = s.pending :=
    rfl

/-! ### listEntry -/

@[simp] theorem State.listEntry_mode (s : State) (e : Entry) : (s.listEntry e).mode = s.mode := rfl
@[simp] theorem State.listEntry_time (s : State) (e : Entry) : (s.listEntry e).time = s.time := rfl
@[simp] theorem State.listEntry_lines (s : State) (e : Entry) : (s.listEntry e).lines = s.lines := rfl
@[simp] theorem State.listEntry_sense (s : State) (e : Entry) : (s.listEntry e).sense = s.sense := rfl
@[simp] theorem State.listEntry_csN (s : State) (e : Entry) : (s.listEntry e).csN = s.csN := rfl
@[simp] theorem State.listEntry_params (s : State) (e : Entry) : (s.listEntry e).params = s.params := rfl
@[simp] theorem State.listEntry_roster (s : State) (e : Entry) : (s.listEntry e).roster = s.roster := rfl
@[simp] theorem State.listEntry_accrual (s : State) (e : Entry) : (s.listEntry e).accrual = s.accrual := rfl
@[simp] theorem State.listEntry_links (s : State) (e : Entry) : (s.listEntry e).links = s.links := rfl
@[simp] theorem State.listEntry_downlinkSince (s : State) (e : Entry) : (s.listEntry e).downlinkSince = s.downlinkSince :=
    rfl
@[simp] theorem State.listEntry_intake (s : State) (e : Entry) : (s.listEntry e).intake = s.intake := rfl
@[simp] theorem State.listEntry_engine (s : State) (e : Entry) : (s.listEntry e).engine = s.engine := rfl
@[simp] theorem State.listEntry_result (s : State) (e : Entry) : (s.listEntry e).result = s.result := rfl
@[simp] theorem State.listEntry_tables (s : State) (e : Entry) : (s.listEntry e).tables = s.tables := rfl
@[simp] theorem State.listEntry_publisher (s : State) (e : Entry) : (s.listEntry e).publisher = s.publisher :=
    rfl
@[simp] theorem State.listEntry_port (s : State) (e : Entry) : (s.listEntry e).port = s.port := rfl
@[simp] theorem State.listEntry_choices (s : State) (e : Entry) : (s.listEntry e).choices = s.choices := rfl
@[simp] theorem State.listEntry_pending (s : State) (e : Entry) : (s.listEntry e).pending = s.pending := rfl

/-! ### listClose -/

@[simp] theorem State.listClose_mode (s : State) (p : Pos) (t : Stamp) (m h : Bool) : (s.listClose p t m h).mode = s.mode :=
    rfl
@[simp] theorem State.listClose_time (s : State) (p : Pos) (t : Stamp) (m h : Bool) : (s.listClose p t m h).time = s.time :=
    rfl
@[simp] theorem State.listClose_lines (s : State) (p : Pos) (t : Stamp) (m h : Bool) : (s.listClose p t m h).lines = s.lines :=
    rfl
@[simp] theorem State.listClose_sense (s : State) (p : Pos) (t : Stamp) (m h : Bool) : (s.listClose p t m h).sense = s.sense :=
    rfl
@[simp] theorem State.listClose_csN (s : State) (p : Pos) (t : Stamp) (m h : Bool) : (s.listClose p t m h).csN = s.csN :=
    rfl
@[simp] theorem State.listClose_params (s : State) (p : Pos) (t : Stamp) (m h : Bool) : (s.listClose p t m h).params = s.params :=
    rfl
@[simp] theorem State.listClose_roster (s : State) (p : Pos) (t : Stamp) (m h : Bool) : (s.listClose p t m h).roster = s.roster :=
    rfl
@[simp] theorem State.listClose_accrual (s : State) (p : Pos) (t : Stamp) (m h : Bool) : (s.listClose p t m h).accrual = s.accrual :=
    rfl
@[simp] theorem State.listClose_links (s : State) (p : Pos) (t : Stamp) (m h : Bool) : (s.listClose p t m h).links = s.links :=
    rfl
@[simp] theorem State.listClose_downlinkSince (s : State) (p : Pos) (t : Stamp) (m h : Bool) : (s.listClose p t m h).downlinkSince = s.downlinkSince :=
    rfl
@[simp] theorem State.listClose_intake (s : State) (p : Pos) (t : Stamp) (m h : Bool) : (s.listClose p t m h).intake = s.intake :=
    rfl
@[simp] theorem State.listClose_engine (s : State) (p : Pos) (t : Stamp) (m h : Bool) : (s.listClose p t m h).engine = s.engine :=
    rfl
@[simp] theorem State.listClose_result (s : State) (p : Pos) (t : Stamp) (m h : Bool) : (s.listClose p t m h).result = s.result :=
    rfl
@[simp] theorem State.listClose_tables (s : State) (p : Pos) (t : Stamp) (m h : Bool) : (s.listClose p t m h).tables = s.tables :=
    rfl
@[simp] theorem State.listClose_publisher (s : State) (p : Pos) (t : Stamp) (m h : Bool) : (s.listClose p t m h).publisher = s.publisher :=
    rfl
@[simp] theorem State.listClose_port (s : State) (p : Pos) (t : Stamp) (m h : Bool) : (s.listClose p t m h).port = s.port :=
    rfl
@[simp] theorem State.listClose_choices (s : State) (p : Pos) (t : Stamp) (m h : Bool) : (s.listClose p t m h).choices = s.choices :=
    rfl
@[simp] theorem State.listClose_pending (s : State) (p : Pos) (t : Stamp) (m h : Bool) : (s.listClose p t m h).pending = s.pending :=
    rfl

/-! ### listOpen -/

@[simp] theorem State.listOpen_mode (s : State) (p : Pos) (t : Stamp) : (s.listOpen p t).mode = s.mode := rfl
@[simp] theorem State.listOpen_time (s : State) (p : Pos) (t : Stamp) : (s.listOpen p t).time = s.time := rfl
@[simp] theorem State.listOpen_lines (s : State) (p : Pos) (t : Stamp) : (s.listOpen p t).lines = s.lines :=
    rfl
@[simp] theorem State.listOpen_sense (s : State) (p : Pos) (t : Stamp) : (s.listOpen p t).sense = s.sense :=
    rfl
@[simp] theorem State.listOpen_csN (s : State) (p : Pos) (t : Stamp) : (s.listOpen p t).csN = s.csN := rfl
@[simp] theorem State.listOpen_params (s : State) (p : Pos) (t : Stamp) : (s.listOpen p t).params = s.params :=
    rfl
@[simp] theorem State.listOpen_roster (s : State) (p : Pos) (t : Stamp) : (s.listOpen p t).roster = s.roster :=
    rfl
@[simp] theorem State.listOpen_accrual (s : State) (p : Pos) (t : Stamp) : (s.listOpen p t).accrual = s.accrual :=
    rfl
@[simp] theorem State.listOpen_links (s : State) (p : Pos) (t : Stamp) : (s.listOpen p t).links = s.links :=
    rfl
@[simp] theorem State.listOpen_downlinkSince (s : State) (p : Pos) (t : Stamp) : (s.listOpen p t).downlinkSince = s.downlinkSince :=
    rfl
@[simp] theorem State.listOpen_intake (s : State) (p : Pos) (t : Stamp) : (s.listOpen p t).intake = s.intake :=
    rfl
@[simp] theorem State.listOpen_engine (s : State) (p : Pos) (t : Stamp) : (s.listOpen p t).engine = s.engine :=
    rfl
@[simp] theorem State.listOpen_result (s : State) (p : Pos) (t : Stamp) : (s.listOpen p t).result = s.result :=
    rfl
@[simp] theorem State.listOpen_tables (s : State) (p : Pos) (t : Stamp) : (s.listOpen p t).tables = s.tables :=
    rfl
@[simp] theorem State.listOpen_publisher (s : State) (p : Pos) (t : Stamp) : (s.listOpen p t).publisher = s.publisher :=
    rfl
@[simp] theorem State.listOpen_port (s : State) (p : Pos) (t : Stamp) : (s.listOpen p t).port = s.port := rfl
@[simp] theorem State.listOpen_choices (s : State) (p : Pos) (t : Stamp) : (s.listOpen p t).choices = s.choices :=
    rfl
@[simp] theorem State.listOpen_pending (s : State) (p : Pos) (t : Stamp) : (s.listOpen p t).pending = s.pending :=
    rfl

/-! ### openWindow -/

@[simp] theorem State.openWindow_mode (s : State) (p : Pos) (c : Eligible) (t : Stamp) : (s.openWindow p c t).mode = s.mode :=
    rfl
@[simp] theorem State.openWindow_time (s : State) (p : Pos) (c : Eligible) (t : Stamp) : (s.openWindow p c t).time = s.time :=
    rfl
@[simp] theorem State.openWindow_lines (s : State) (p : Pos) (c : Eligible) (t : Stamp) : (s.openWindow p c t).lines = s.lines :=
    rfl
@[simp] theorem State.openWindow_sense (s : State) (p : Pos) (c : Eligible) (t : Stamp) : (s.openWindow p c t).sense = s.sense :=
    rfl
@[simp] theorem State.openWindow_csN (s : State) (p : Pos) (c : Eligible) (t : Stamp) : (s.openWindow p c t).csN = s.csN :=
    rfl
@[simp] theorem State.openWindow_params (s : State) (p : Pos) (c : Eligible) (t : Stamp) : (s.openWindow p c t).params = s.params :=
    rfl
@[simp] theorem State.openWindow_roster (s : State) (p : Pos) (c : Eligible) (t : Stamp) : (s.openWindow p c t).roster = s.roster :=
    rfl
@[simp] theorem State.openWindow_accrual (s : State) (p : Pos) (c : Eligible) (t : Stamp) : (s.openWindow p c t).accrual = s.accrual :=
    rfl
@[simp] theorem State.openWindow_links (s : State) (p : Pos) (c : Eligible) (t : Stamp) : (s.openWindow p c t).links = s.links :=
    rfl
@[simp] theorem State.openWindow_downlinkSince (s : State) (p : Pos) (c : Eligible) (t : Stamp) : (s.openWindow p c t).downlinkSince = s.downlinkSince :=
    rfl
@[simp] theorem State.openWindow_matrix (s : State) (p : Pos) (c : Eligible) (t : Stamp) : (s.openWindow p c t).matrix = s.matrix :=
    rfl
@[simp] theorem State.openWindow_engine (s : State) (p : Pos) (c : Eligible) (t : Stamp) : (s.openWindow p c t).engine = s.engine :=
    rfl
@[simp] theorem State.openWindow_result (s : State) (p : Pos) (c : Eligible) (t : Stamp) : (s.openWindow p c t).result = s.result :=
    rfl
@[simp] theorem State.openWindow_tables (s : State) (p : Pos) (c : Eligible) (t : Stamp) : (s.openWindow p c t).tables = s.tables :=
    rfl
@[simp] theorem State.openWindow_publisher (s : State) (p : Pos) (c : Eligible) (t : Stamp) : (s.openWindow p c t).publisher = s.publisher :=
    rfl
@[simp] theorem State.openWindow_port (s : State) (p : Pos) (c : Eligible) (t : Stamp) : (s.openWindow p c t).port = s.port :=
    rfl
@[simp] theorem State.openWindow_choices (s : State) (p : Pos) (c : Eligible) (t : Stamp) : (s.openWindow p c t).choices = s.choices :=
    rfl
@[simp] theorem State.openWindow_pending (s : State) (p : Pos) (c : Eligible) (t : Stamp) : (s.openWindow p c t).pending = s.pending :=
    rfl

/-! ### groupClose -/

@[simp] theorem State.groupClose_mode (s : State) (c : Eligible) : (s.groupClose c).mode = s.mode := rfl
@[simp] theorem State.groupClose_time (s : State) (c : Eligible) : (s.groupClose c).time = s.time := rfl
@[simp] theorem State.groupClose_lines (s : State) (c : Eligible) : (s.groupClose c).lines = s.lines := rfl
@[simp] theorem State.groupClose_sense (s : State) (c : Eligible) : (s.groupClose c).sense = s.sense := rfl
@[simp] theorem State.groupClose_csN (s : State) (c : Eligible) : (s.groupClose c).csN = s.csN := rfl
@[simp] theorem State.groupClose_params (s : State) (c : Eligible) : (s.groupClose c).params = s.params := rfl
@[simp] theorem State.groupClose_roster (s : State) (c : Eligible) : (s.groupClose c).roster = s.roster := rfl
@[simp] theorem State.groupClose_accrual (s : State) (c : Eligible) : (s.groupClose c).accrual = s.accrual :=
    rfl
@[simp] theorem State.groupClose_links (s : State) (c : Eligible) : (s.groupClose c).links = s.links := rfl
@[simp] theorem State.groupClose_downlinkSince (s : State) (c : Eligible) : (s.groupClose c).downlinkSince = s.downlinkSince :=
    rfl
@[simp] theorem State.groupClose_matrix (s : State) (c : Eligible) : (s.groupClose c).matrix = s.matrix := rfl
@[simp] theorem State.groupClose_engine (s : State) (c : Eligible) : (s.groupClose c).engine = s.engine := rfl
@[simp] theorem State.groupClose_result (s : State) (c : Eligible) : (s.groupClose c).result = s.result := rfl
@[simp] theorem State.groupClose_tables (s : State) (c : Eligible) : (s.groupClose c).tables = s.tables := rfl
@[simp] theorem State.groupClose_publisher (s : State) (c : Eligible) : (s.groupClose c).publisher = s.publisher :=
    rfl
@[simp] theorem State.groupClose_port (s : State) (c : Eligible) : (s.groupClose c).port = s.port := rfl
@[simp] theorem State.groupClose_choices (s : State) (c : Eligible) : (s.groupClose c).choices = s.choices :=
    rfl
@[simp] theorem State.groupClose_pending (s : State) (c : Eligible) : (s.groupClose c).pending = s.pending :=
    rfl

/-! ### sampleLines -/

@[simp] theorem State.sampleLines_mode (s : State) : (s.sampleLines).mode = s.mode := rfl
@[simp] theorem State.sampleLines_time (s : State) : (s.sampleLines).time = s.time := rfl
@[simp] theorem State.sampleLines_lines (s : State) : (s.sampleLines).lines = s.lines := rfl
@[simp] theorem State.sampleLines_sense (s : State) : (s.sampleLines).sense = s.sense := rfl
@[simp] theorem State.sampleLines_csN (s : State) : (s.sampleLines).csN = s.csN := rfl
@[simp] theorem State.sampleLines_params (s : State) : (s.sampleLines).params = s.params := rfl
@[simp] theorem State.sampleLines_roster (s : State) : (s.sampleLines).roster = s.roster := rfl
@[simp] theorem State.sampleLines_accrual (s : State) : (s.sampleLines).accrual = s.accrual := rfl
@[simp] theorem State.sampleLines_links (s : State) : (s.sampleLines).links = s.links := rfl
@[simp] theorem State.sampleLines_downlinkSince (s : State) : (s.sampleLines).downlinkSince = s.downlinkSince :=
    rfl
@[simp] theorem State.sampleLines_intake (s : State) : (s.sampleLines).intake = s.intake := rfl
@[simp] theorem State.sampleLines_matrix (s : State) : (s.sampleLines).matrix = s.matrix := rfl
@[simp] theorem State.sampleLines_result (s : State) : (s.sampleLines).result = s.result := rfl
@[simp] theorem State.sampleLines_tables (s : State) : (s.sampleLines).tables = s.tables := rfl
@[simp] theorem State.sampleLines_publisher (s : State) : (s.sampleLines).publisher = s.publisher := rfl
@[simp] theorem State.sampleLines_port (s : State) : (s.sampleLines).port = s.port := rfl
@[simp] theorem State.sampleLines_choices (s : State) : (s.sampleLines).choices = s.choices := rfl
@[simp] theorem State.sampleLines_pending (s : State) : (s.sampleLines).pending = s.pending := rfl

/-! ### openPass -/

@[simp] theorem State.openPass_mode (s : State) (k : PassKind) : (s.openPass k).mode = s.mode := rfl
@[simp] theorem State.openPass_time (s : State) (k : PassKind) : (s.openPass k).time = s.time := rfl
@[simp] theorem State.openPass_lines (s : State) (k : PassKind) : (s.openPass k).lines = s.lines := rfl
@[simp] theorem State.openPass_sense (s : State) (k : PassKind) : (s.openPass k).sense = s.sense := rfl
@[simp] theorem State.openPass_csN (s : State) (k : PassKind) : (s.openPass k).csN = s.csN := rfl
@[simp] theorem State.openPass_params (s : State) (k : PassKind) : (s.openPass k).params = s.params := rfl
@[simp] theorem State.openPass_roster (s : State) (k : PassKind) : (s.openPass k).roster = s.roster := rfl
@[simp] theorem State.openPass_accrual (s : State) (k : PassKind) : (s.openPass k).accrual = s.accrual := rfl
@[simp] theorem State.openPass_links (s : State) (k : PassKind) : (s.openPass k).links = s.links := rfl
@[simp] theorem State.openPass_downlinkSince (s : State) (k : PassKind) : (s.openPass k).downlinkSince = s.downlinkSince :=
    rfl
@[simp] theorem State.openPass_intake (s : State) (k : PassKind) : (s.openPass k).intake = s.intake := rfl
@[simp] theorem State.openPass_matrix (s : State) (k : PassKind) : (s.openPass k).matrix = s.matrix := rfl
@[simp] theorem State.openPass_result (s : State) (k : PassKind) : (s.openPass k).result = s.result := rfl
@[simp] theorem State.openPass_tables (s : State) (k : PassKind) : (s.openPass k).tables = s.tables := rfl
@[simp] theorem State.openPass_publisher (s : State) (k : PassKind) : (s.openPass k).publisher = s.publisher :=
    rfl
@[simp] theorem State.openPass_port (s : State) (k : PassKind) : (s.openPass k).port = s.port := rfl
@[simp] theorem State.openPass_choices (s : State) (k : PassKind) : (s.openPass k).choices = s.choices := rfl
@[simp] theorem State.openPass_pending (s : State) (k : PassKind) : (s.openPass k).pending = s.pending := rfl

/-! ### cleanSecond -/

@[simp] theorem State.cleanSecond_mode (s : State) : (s.cleanSecond).mode = s.mode := rfl
@[simp] theorem State.cleanSecond_time (s : State) : (s.cleanSecond).time = s.time := rfl
@[simp] theorem State.cleanSecond_lines (s : State) : (s.cleanSecond).lines = s.lines := rfl
@[simp] theorem State.cleanSecond_sense (s : State) : (s.cleanSecond).sense = s.sense := rfl
@[simp] theorem State.cleanSecond_csN (s : State) : (s.cleanSecond).csN = s.csN := rfl
@[simp] theorem State.cleanSecond_params (s : State) : (s.cleanSecond).params = s.params := rfl
@[simp] theorem State.cleanSecond_roster (s : State) : (s.cleanSecond).roster = s.roster := rfl
@[simp] theorem State.cleanSecond_accrual (s : State) : (s.cleanSecond).accrual = s.accrual := rfl
@[simp] theorem State.cleanSecond_links (s : State) : (s.cleanSecond).links = s.links := rfl
@[simp] theorem State.cleanSecond_downlinkSince (s : State) : (s.cleanSecond).downlinkSince = s.downlinkSince :=
    rfl
@[simp] theorem State.cleanSecond_intake (s : State) : (s.cleanSecond).intake = s.intake := rfl
@[simp] theorem State.cleanSecond_matrix (s : State) : (s.cleanSecond).matrix = s.matrix := rfl
@[simp] theorem State.cleanSecond_result (s : State) : (s.cleanSecond).result = s.result := rfl
@[simp] theorem State.cleanSecond_tables (s : State) : (s.cleanSecond).tables = s.tables := rfl
@[simp] theorem State.cleanSecond_publisher (s : State) : (s.cleanSecond).publisher = s.publisher := rfl
@[simp] theorem State.cleanSecond_port (s : State) : (s.cleanSecond).port = s.port := rfl
@[simp] theorem State.cleanSecond_choices (s : State) : (s.cleanSecond).choices = s.choices := rfl
@[simp] theorem State.cleanSecond_pending (s : State) : (s.cleanSecond).pending = s.pending := rfl

/-! ### cleanEnd -/

@[simp] theorem State.cleanEnd_mode (s : State) : (s.cleanEnd).mode = s.mode := rfl
@[simp] theorem State.cleanEnd_time (s : State) : (s.cleanEnd).time = s.time := rfl
@[simp] theorem State.cleanEnd_lines (s : State) : (s.cleanEnd).lines = s.lines := rfl
@[simp] theorem State.cleanEnd_sense (s : State) : (s.cleanEnd).sense = s.sense := rfl
@[simp] theorem State.cleanEnd_csN (s : State) : (s.cleanEnd).csN = s.csN := rfl
@[simp] theorem State.cleanEnd_params (s : State) : (s.cleanEnd).params = s.params := rfl
@[simp] theorem State.cleanEnd_roster (s : State) : (s.cleanEnd).roster = s.roster := rfl
@[simp] theorem State.cleanEnd_accrual (s : State) : (s.cleanEnd).accrual = s.accrual := rfl
@[simp] theorem State.cleanEnd_links (s : State) : (s.cleanEnd).links = s.links := rfl
@[simp] theorem State.cleanEnd_downlinkSince (s : State) : (s.cleanEnd).downlinkSince = s.downlinkSince := rfl
@[simp] theorem State.cleanEnd_intake (s : State) : (s.cleanEnd).intake = s.intake := rfl
@[simp] theorem State.cleanEnd_matrix (s : State) : (s.cleanEnd).matrix = s.matrix := rfl
@[simp] theorem State.cleanEnd_result (s : State) : (s.cleanEnd).result = s.result := rfl
@[simp] theorem State.cleanEnd_tables (s : State) : (s.cleanEnd).tables = s.tables := rfl
@[simp] theorem State.cleanEnd_publisher (s : State) : (s.cleanEnd).publisher = s.publisher := rfl
@[simp] theorem State.cleanEnd_port (s : State) : (s.cleanEnd).port = s.port := rfl
@[simp] theorem State.cleanEnd_choices (s : State) : (s.cleanEnd).choices = s.choices := rfl
@[simp] theorem State.cleanEnd_pending (s : State) : (s.cleanEnd).pending = s.pending := rfl

/-! ### setEnergized -/

@[simp] theorem State.setEnergized_mode (s : State) (l : Line) : (s.setEnergized l).mode = s.mode := rfl
@[simp] theorem State.setEnergized_time (s : State) (l : Line) : (s.setEnergized l).time = s.time := rfl
@[simp] theorem State.setEnergized_sense (s : State) (l : Line) : (s.setEnergized l).sense = s.sense := rfl
@[simp] theorem State.setEnergized_csN (s : State) (l : Line) : (s.setEnergized l).csN = s.csN := rfl
@[simp] theorem State.setEnergized_params (s : State) (l : Line) : (s.setEnergized l).params = s.params := rfl
@[simp] theorem State.setEnergized_roster (s : State) (l : Line) : (s.setEnergized l).roster = s.roster := rfl
@[simp] theorem State.setEnergized_accrual (s : State) (l : Line) : (s.setEnergized l).accrual = s.accrual :=
    rfl
@[simp] theorem State.setEnergized_links (s : State) (l : Line) : (s.setEnergized l).links = s.links := rfl
@[simp] theorem State.setEnergized_downlinkSince (s : State) (l : Line) : (s.setEnergized l).downlinkSince = s.downlinkSince :=
    rfl
@[simp] theorem State.setEnergized_intake (s : State) (l : Line) : (s.setEnergized l).intake = s.intake := rfl
@[simp] theorem State.setEnergized_matrix (s : State) (l : Line) : (s.setEnergized l).matrix = s.matrix := rfl
@[simp] theorem State.setEnergized_engine (s : State) (l : Line) : (s.setEnergized l).engine = s.engine := rfl
@[simp] theorem State.setEnergized_result (s : State) (l : Line) : (s.setEnergized l).result = s.result := rfl
@[simp] theorem State.setEnergized_tables (s : State) (l : Line) : (s.setEnergized l).tables = s.tables := rfl
@[simp] theorem State.setEnergized_publisher (s : State) (l : Line) : (s.setEnergized l).publisher = s.publisher :=
    rfl
@[simp] theorem State.setEnergized_port (s : State) (l : Line) : (s.setEnergized l).port = s.port := rfl
@[simp] theorem State.setEnergized_choices (s : State) (l : Line) : (s.setEnergized l).choices = s.choices :=
    rfl
@[simp] theorem State.setEnergized_pending (s : State) (l : Line) : (s.setEnergized l).pending = s.pending :=
    rfl

/-! ### setEstopN -/

@[simp] theorem State.setEstopN_mode (s : State) (l : Line) : (s.setEstopN l).mode = s.mode := rfl
@[simp] theorem State.setEstopN_time (s : State) (l : Line) : (s.setEstopN l).time = s.time := rfl
@[simp] theorem State.setEstopN_sense (s : State) (l : Line) : (s.setEstopN l).sense = s.sense := rfl
@[simp] theorem State.setEstopN_csN (s : State) (l : Line) : (s.setEstopN l).csN = s.csN := rfl
@[simp] theorem State.setEstopN_params (s : State) (l : Line) : (s.setEstopN l).params = s.params := rfl
@[simp] theorem State.setEstopN_roster (s : State) (l : Line) : (s.setEstopN l).roster = s.roster := rfl
@[simp] theorem State.setEstopN_accrual (s : State) (l : Line) : (s.setEstopN l).accrual = s.accrual := rfl
@[simp] theorem State.setEstopN_links (s : State) (l : Line) : (s.setEstopN l).links = s.links := rfl
@[simp] theorem State.setEstopN_downlinkSince (s : State) (l : Line) : (s.setEstopN l).downlinkSince = s.downlinkSince :=
    rfl
@[simp] theorem State.setEstopN_intake (s : State) (l : Line) : (s.setEstopN l).intake = s.intake := rfl
@[simp] theorem State.setEstopN_matrix (s : State) (l : Line) : (s.setEstopN l).matrix = s.matrix := rfl
@[simp] theorem State.setEstopN_engine (s : State) (l : Line) : (s.setEstopN l).engine = s.engine := rfl
@[simp] theorem State.setEstopN_result (s : State) (l : Line) : (s.setEstopN l).result = s.result := rfl
@[simp] theorem State.setEstopN_tables (s : State) (l : Line) : (s.setEstopN l).tables = s.tables := rfl
@[simp] theorem State.setEstopN_publisher (s : State) (l : Line) : (s.setEstopN l).publisher = s.publisher :=
    rfl
@[simp] theorem State.setEstopN_port (s : State) (l : Line) : (s.setEstopN l).port = s.port := rfl
@[simp] theorem State.setEstopN_choices (s : State) (l : Line) : (s.setEstopN l).choices = s.choices := rfl
@[simp] theorem State.setEstopN_pending (s : State) (l : Line) : (s.setEstopN l).pending = s.pending := rfl

/-! ### setBrakeSet -/

@[simp] theorem State.setBrakeSet_mode (s : State) (l : Line) : (s.setBrakeSet l).mode = s.mode := rfl
@[simp] theorem State.setBrakeSet_time (s : State) (l : Line) : (s.setBrakeSet l).time = s.time := rfl
@[simp] theorem State.setBrakeSet_sense (s : State) (l : Line) : (s.setBrakeSet l).sense = s.sense := rfl
@[simp] theorem State.setBrakeSet_csN (s : State) (l : Line) : (s.setBrakeSet l).csN = s.csN := rfl
@[simp] theorem State.setBrakeSet_params (s : State) (l : Line) : (s.setBrakeSet l).params = s.params := rfl
@[simp] theorem State.setBrakeSet_roster (s : State) (l : Line) : (s.setBrakeSet l).roster = s.roster := rfl
@[simp] theorem State.setBrakeSet_accrual (s : State) (l : Line) : (s.setBrakeSet l).accrual = s.accrual :=
    rfl
@[simp] theorem State.setBrakeSet_links (s : State) (l : Line) : (s.setBrakeSet l).links = s.links := rfl
@[simp] theorem State.setBrakeSet_downlinkSince (s : State) (l : Line) : (s.setBrakeSet l).downlinkSince = s.downlinkSince :=
    rfl
@[simp] theorem State.setBrakeSet_intake (s : State) (l : Line) : (s.setBrakeSet l).intake = s.intake := rfl
@[simp] theorem State.setBrakeSet_matrix (s : State) (l : Line) : (s.setBrakeSet l).matrix = s.matrix := rfl
@[simp] theorem State.setBrakeSet_engine (s : State) (l : Line) : (s.setBrakeSet l).engine = s.engine := rfl
@[simp] theorem State.setBrakeSet_result (s : State) (l : Line) : (s.setBrakeSet l).result = s.result := rfl
@[simp] theorem State.setBrakeSet_tables (s : State) (l : Line) : (s.setBrakeSet l).tables = s.tables := rfl
@[simp] theorem State.setBrakeSet_publisher (s : State) (l : Line) : (s.setBrakeSet l).publisher = s.publisher :=
    rfl
@[simp] theorem State.setBrakeSet_port (s : State) (l : Line) : (s.setBrakeSet l).port = s.port := rfl
@[simp] theorem State.setBrakeSet_choices (s : State) (l : Line) : (s.setBrakeSet l).choices = s.choices :=
    rfl
@[simp] theorem State.setBrakeSet_pending (s : State) (l : Line) : (s.setBrakeSet l).pending = s.pending :=
    rfl

/-! ### setProven -/

@[simp] theorem State.setProven_mode (s : State) (l : Line) : (s.setProven l).mode = s.mode := rfl
@[simp] theorem State.setProven_time (s : State) (l : Line) : (s.setProven l).time = s.time := rfl
@[simp] theorem State.setProven_sense (s : State) (l : Line) : (s.setProven l).sense = s.sense := rfl
@[simp] theorem State.setProven_csN (s : State) (l : Line) : (s.setProven l).csN = s.csN := rfl
@[simp] theorem State.setProven_params (s : State) (l : Line) : (s.setProven l).params = s.params := rfl
@[simp] theorem State.setProven_roster (s : State) (l : Line) : (s.setProven l).roster = s.roster := rfl
@[simp] theorem State.setProven_accrual (s : State) (l : Line) : (s.setProven l).accrual = s.accrual := rfl
@[simp] theorem State.setProven_links (s : State) (l : Line) : (s.setProven l).links = s.links := rfl
@[simp] theorem State.setProven_downlinkSince (s : State) (l : Line) : (s.setProven l).downlinkSince = s.downlinkSince :=
    rfl
@[simp] theorem State.setProven_intake (s : State) (l : Line) : (s.setProven l).intake = s.intake := rfl
@[simp] theorem State.setProven_matrix (s : State) (l : Line) : (s.setProven l).matrix = s.matrix := rfl
@[simp] theorem State.setProven_engine (s : State) (l : Line) : (s.setProven l).engine = s.engine := rfl
@[simp] theorem State.setProven_result (s : State) (l : Line) : (s.setProven l).result = s.result := rfl
@[simp] theorem State.setProven_tables (s : State) (l : Line) : (s.setProven l).tables = s.tables := rfl
@[simp] theorem State.setProven_publisher (s : State) (l : Line) : (s.setProven l).publisher = s.publisher :=
    rfl
@[simp] theorem State.setProven_port (s : State) (l : Line) : (s.setProven l).port = s.port := rfl
@[simp] theorem State.setProven_choices (s : State) (l : Line) : (s.setProven l).choices = s.choices := rfl
@[simp] theorem State.setProven_pending (s : State) (l : Line) : (s.setProven l).pending = s.pending := rfl

/-! ### publishEntry -/

@[simp] theorem State.publishEntry_mode (s : State) (r : Result) : (s.publishEntry r).mode = s.mode := rfl
@[simp] theorem State.publishEntry_time (s : State) (r : Result) : (s.publishEntry r).time = s.time := rfl
@[simp] theorem State.publishEntry_lines (s : State) (r : Result) : (s.publishEntry r).lines = s.lines := rfl
@[simp] theorem State.publishEntry_sense (s : State) (r : Result) : (s.publishEntry r).sense = s.sense := rfl
@[simp] theorem State.publishEntry_csN (s : State) (r : Result) : (s.publishEntry r).csN = s.csN := rfl
@[simp] theorem State.publishEntry_params (s : State) (r : Result) : (s.publishEntry r).params = s.params :=
    rfl
@[simp] theorem State.publishEntry_roster (s : State) (r : Result) : (s.publishEntry r).roster = s.roster :=
    rfl
@[simp] theorem State.publishEntry_accrual (s : State) (r : Result) : (s.publishEntry r).accrual = s.accrual :=
    rfl
@[simp] theorem State.publishEntry_links (s : State) (r : Result) : (s.publishEntry r).links = s.links := rfl
@[simp] theorem State.publishEntry_downlinkSince (s : State) (r : Result) : (s.publishEntry r).downlinkSince = s.downlinkSince :=
    rfl
@[simp] theorem State.publishEntry_intake (s : State) (r : Result) : (s.publishEntry r).intake = s.intake :=
    rfl
@[simp] theorem State.publishEntry_matrix (s : State) (r : Result) : (s.publishEntry r).matrix = s.matrix :=
    rfl
@[simp] theorem State.publishEntry_engine (s : State) (r : Result) : (s.publishEntry r).engine = s.engine :=
    rfl
@[simp] theorem State.publishEntry_result (s : State) (r : Result) : (s.publishEntry r).result = s.result :=
    rfl
@[simp] theorem State.publishEntry_tables (s : State) (r : Result) : (s.publishEntry r).tables = s.tables :=
    rfl
@[simp] theorem State.publishEntry_port (s : State) (r : Result) : (s.publishEntry r).port = s.port := rfl
@[simp] theorem State.publishEntry_choices (s : State) (r : Result) : (s.publishEntry r).choices = s.choices :=
    rfl
@[simp] theorem State.publishEntry_pending (s : State) (r : Result) : (s.publishEntry r).pending = s.pending :=
    rfl

/-! ### setReceiver -/

@[simp] theorem State.setReceiver_mode (s : State) (r : Option (List Byte)) : (s.setReceiver r).mode = s.mode :=
    rfl
@[simp] theorem State.setReceiver_time (s : State) (r : Option (List Byte)) : (s.setReceiver r).time = s.time :=
    rfl
@[simp] theorem State.setReceiver_lines (s : State) (r : Option (List Byte)) : (s.setReceiver r).lines = s.lines :=
    rfl
@[simp] theorem State.setReceiver_sense (s : State) (r : Option (List Byte)) : (s.setReceiver r).sense = s.sense :=
    rfl
@[simp] theorem State.setReceiver_csN (s : State) (r : Option (List Byte)) : (s.setReceiver r).csN = s.csN :=
    rfl
@[simp] theorem State.setReceiver_params (s : State) (r : Option (List Byte)) : (s.setReceiver r).params = s.params :=
    rfl
@[simp] theorem State.setReceiver_roster (s : State) (r : Option (List Byte)) : (s.setReceiver r).roster = s.roster :=
    rfl
@[simp] theorem State.setReceiver_accrual (s : State) (r : Option (List Byte)) : (s.setReceiver r).accrual = s.accrual :=
    rfl
@[simp] theorem State.setReceiver_links (s : State) (r : Option (List Byte)) : (s.setReceiver r).links = s.links :=
    rfl
@[simp] theorem State.setReceiver_downlinkSince (s : State) (r : Option (List Byte)) : (s.setReceiver r).downlinkSince = s.downlinkSince :=
    rfl
@[simp] theorem State.setReceiver_intake (s : State) (r : Option (List Byte)) : (s.setReceiver r).intake = s.intake :=
    rfl
@[simp] theorem State.setReceiver_matrix (s : State) (r : Option (List Byte)) : (s.setReceiver r).matrix = s.matrix :=
    rfl
@[simp] theorem State.setReceiver_engine (s : State) (r : Option (List Byte)) : (s.setReceiver r).engine = s.engine :=
    rfl
@[simp] theorem State.setReceiver_result (s : State) (r : Option (List Byte)) : (s.setReceiver r).result = s.result :=
    rfl
@[simp] theorem State.setReceiver_tables (s : State) (r : Option (List Byte)) : (s.setReceiver r).tables = s.tables :=
    rfl
@[simp] theorem State.setReceiver_port (s : State) (r : Option (List Byte)) : (s.setReceiver r).port = s.port :=
    rfl
@[simp] theorem State.setReceiver_choices (s : State) (r : Option (List Byte)) : (s.setReceiver r).choices = s.choices :=
    rfl
@[simp] theorem State.setReceiver_pending (s : State) (r : Option (List Byte)) : (s.setReceiver r).pending = s.pending :=
    rfl

/-! ### setShift -/

@[simp] theorem State.setShift_mode (s : State) (l : List ShiftEntry) : (s.setShift l).mode = s.mode := rfl
@[simp] theorem State.setShift_time (s : State) (l : List ShiftEntry) : (s.setShift l).time = s.time := rfl
@[simp] theorem State.setShift_lines (s : State) (l : List ShiftEntry) : (s.setShift l).lines = s.lines := rfl
@[simp] theorem State.setShift_sense (s : State) (l : List ShiftEntry) : (s.setShift l).sense = s.sense := rfl
@[simp] theorem State.setShift_csN (s : State) (l : List ShiftEntry) : (s.setShift l).csN = s.csN := rfl
@[simp] theorem State.setShift_params (s : State) (l : List ShiftEntry) : (s.setShift l).params = s.params :=
    rfl
@[simp] theorem State.setShift_roster (s : State) (l : List ShiftEntry) : (s.setShift l).roster = s.roster :=
    rfl
@[simp] theorem State.setShift_accrual (s : State) (l : List ShiftEntry) : (s.setShift l).accrual = s.accrual :=
    rfl
@[simp] theorem State.setShift_links (s : State) (l : List ShiftEntry) : (s.setShift l).links = s.links := rfl
@[simp] theorem State.setShift_downlinkSince (s : State) (l : List ShiftEntry) : (s.setShift l).downlinkSince = s.downlinkSince :=
    rfl
@[simp] theorem State.setShift_intake (s : State) (l : List ShiftEntry) : (s.setShift l).intake = s.intake :=
    rfl
@[simp] theorem State.setShift_matrix (s : State) (l : List ShiftEntry) : (s.setShift l).matrix = s.matrix :=
    rfl
@[simp] theorem State.setShift_engine (s : State) (l : List ShiftEntry) : (s.setShift l).engine = s.engine :=
    rfl
@[simp] theorem State.setShift_result (s : State) (l : List ShiftEntry) : (s.setShift l).result = s.result :=
    rfl
@[simp] theorem State.setShift_publisher (s : State) (l : List ShiftEntry) : (s.setShift l).publisher = s.publisher :=
    rfl
@[simp] theorem State.setShift_port (s : State) (l : List ShiftEntry) : (s.setShift l).port = s.port := rfl
@[simp] theorem State.setShift_choices (s : State) (l : List ShiftEntry) : (s.setShift l).choices = s.choices :=
    rfl
@[simp] theorem State.setShift_pending (s : State) (l : List ShiftEntry) : (s.setShift l).pending = s.pending :=
    rfl

/-! ### answered -/

@[simp] theorem State.answered_mode (s : State) (tag : Byte) (r : Reply) : (s.answered tag r).mode = s.mode :=
    rfl
@[simp] theorem State.answered_time (s : State) (tag : Byte) (r : Reply) : (s.answered tag r).time = s.time :=
    rfl
@[simp] theorem State.answered_lines (s : State) (tag : Byte) (r : Reply) : (s.answered tag r).lines = s.lines :=
    rfl
@[simp] theorem State.answered_sense (s : State) (tag : Byte) (r : Reply) : (s.answered tag r).sense = s.sense :=
    rfl
@[simp] theorem State.answered_params (s : State) (tag : Byte) (r : Reply) : (s.answered tag r).params = s.params :=
    rfl
@[simp] theorem State.answered_roster (s : State) (tag : Byte) (r : Reply) : (s.answered tag r).roster = s.roster :=
    rfl
@[simp] theorem State.answered_accrual (s : State) (tag : Byte) (r : Reply) : (s.answered tag r).accrual = s.accrual :=
    rfl
@[simp] theorem State.answered_links (s : State) (tag : Byte) (r : Reply) : (s.answered tag r).links = s.links :=
    rfl
@[simp] theorem State.answered_downlinkSince (s : State) (tag : Byte) (r : Reply) : (s.answered tag r).downlinkSince = s.downlinkSince :=
    rfl
@[simp] theorem State.answered_intake (s : State) (tag : Byte) (r : Reply) : (s.answered tag r).intake = s.intake :=
    rfl
@[simp] theorem State.answered_matrix (s : State) (tag : Byte) (r : Reply) : (s.answered tag r).matrix = s.matrix :=
    rfl
@[simp] theorem State.answered_engine (s : State) (tag : Byte) (r : Reply) : (s.answered tag r).engine = s.engine :=
    rfl
@[simp] theorem State.answered_result (s : State) (tag : Byte) (r : Reply) : (s.answered tag r).result = s.result :=
    rfl
@[simp] theorem State.answered_tables (s : State) (tag : Byte) (r : Reply) : (s.answered tag r).tables = s.tables :=
    rfl
@[simp] theorem State.answered_publisher (s : State) (tag : Byte) (r : Reply) : (s.answered tag r).publisher = s.publisher :=
    rfl
@[simp] theorem State.answered_choices (s : State) (tag : Byte) (r : Reply) : (s.answered tag r).choices = s.choices :=
    rfl
@[simp] theorem State.answered_pending (s : State) (tag : Byte) (r : Reply) : (s.answered tag r).pending = s.pending :=
    rfl

/-! ### What the written fields hold -/

@[simp] theorem State.setFlag_flags (s : State) (f : Flag) :
    (s.setFlag f).port.flags = s.port.flags ||| f.bit := rfl
@[simp] theorem State.setFlag_mask (s : State) (f : Flag) : (s.setFlag f).port.mask = s.port.mask := rfl
@[simp] theorem State.setFlag_portState (s : State) (f : Flag) : (s.setFlag f).port.state = s.port.state :=
    rfl
@[simp] theorem State.setFlag_answer (s : State) (f : Flag) : (s.setFlag f).port.answer = s.port.answer := rfl
@[simp] theorem State.setFlag_miso (s : State) (f : Flag) : (s.setFlag f).port.miso = s.port.miso := rfl
@[simp] theorem State.setFlag_resetRecord (s : State) (f : Flag) :
    (s.setFlag f).port.resetRecord = s.port.resetRecord := rfl
@[simp] theorem State.setOrders_orders (s : State) (l : List Entry) : (s.setOrders l).matrix.orders = l := rfl
@[simp] theorem State.setOrders_unit (s : State) (l : List Entry) :
    (s.setOrders l).matrix.unit = s.matrix.unit := rfl
@[simp] theorem State.setUnit_unit (s : State) (u : FiringUnit) : (s.setUnit u).matrix.unit = u := rfl
@[simp] theorem State.setUnit_orders (s : State) (u : FiringUnit) :
    (s.setUnit u).matrix.orders = s.matrix.orders := rfl
@[simp] theorem State.setShift_shift (s : State) (l : List ShiftEntry) : (s.setShift l).tables.shift = l :=
    rfl
@[simp] theorem State.setShift_scale (s : State) (l : List ShiftEntry) :
    (s.setShift l).tables.scale = s.tables.scale := rfl
@[simp] theorem State.setReceiver_receiver (s : State) (r : Option (List Byte)) :
    (s.setReceiver r).publisher.receiver = r := rfl
@[simp] theorem State.answered_csN (s : State) (tag : Byte) (r : Reply) : (s.answered tag r).csN = true := rfl
@[simp] theorem State.answered_flags (s : State) (tag : Byte) (r : Reply) :
    (s.answered tag r).port.flags = s.port.flags := rfl
@[simp] theorem State.answered_mask (s : State) (tag : Byte) (r : Reply) :
    (s.answered tag r).port.mask = s.port.mask := rfl

/-! ### Records and links -/

@[simp] theorem State.record_setRecord_same (s : State) (p : Pos) (r : Record) :
    (s.setRecord p r).record p = r := by
  simp [State.record, State.setRecord]

theorem State.record_setRecord_ne (s : State) (p q : Pos) (r : Record) (h : q ≠ p) :
    (s.setRecord p r).record q = s.record q := by
  have : p.val ≠ q.val := fun e => h (Fin.ext e.symm)
  simp [State.record, State.setRecord, this]

theorem State.record_setRecord (s : State) (p q : Pos) (r : Record) :
    (s.setRecord p r).record q = if q = p then r else s.record q := by
  by_cases h : q = p
  · subst h; simp
  · simp [h, State.record_setRecord_ne]

@[simp] theorem State.record_mapRecords (s : State) (f : Pos → Record → Record) (p : Pos) :
    (s.mapRecords f).record p = f p (s.record p) := by
  simp [State.record, State.mapRecords]

/-- Two states with one roster have the same records. -/
theorem State.record_congr {s t : State} (h : t.roster = s.roster) (p : Pos) : t.record p = s.record p := by
  simp [State.record, h]

@[simp] theorem State.link_setLink_same (s : State) (ch : Chan) (l : Link) : (s.setLink ch l).link ch = l :=
    by
  simp [State.link, State.setLink]

theorem State.link_setLink_ne (s : State) (ch c : Chan) (l : Link) (h : c ≠ ch) :
    (s.setLink ch l).link c = s.link c := by
  have : ch.val ≠ c.val := fun e => h (Fin.ext e.symm)
  simp [State.link, State.setLink, this]

theorem State.link_congr {s t : State} (h : t.links = s.links) (ch : Chan) : t.link ch = s.link ch := by
  simp [State.link, h]

end Sys2Proof.Machine
end

