-- ==== Sys2Proof/Laws/Views.lean ====
section
/-! SUPPORT. What an update of one field leaves of the records, the links and the two indexes: nothing
but an update of the roster changes a record, and nothing but an update of the links changes a link. -/

namespace Sys2Proof.Machine

@[simp] theorem State.setMode_record (s : State) (m : Mode) (p : Pos) : (s.setMode m).record p = s.record p :=
  State.record_congr rfl p
@[simp] theorem State.setMode_link (s : State) (m : Mode) (ch : Chan) : (s.setMode m).link ch = s.link ch :=
  State.link_congr rfl ch
@[simp] theorem State.setTime_record (s : State) (t : Stamp) (p : Pos) : (s.setTime t).record p = s.record p :=
  State.record_congr rfl p
@[simp] theorem State.setTime_link (s : State) (t : Stamp) (ch : Chan) : (s.setTime t).link ch = s.link ch :=
  State.link_congr rfl ch
@[simp] theorem State.setLines_record (s : State) (l : Lines) (p : Pos) : (s.setLines l).record p = s.record p :=
  State.record_congr rfl p
@[simp] theorem State.setLines_link (s : State) (l : Lines) (ch : Chan) : (s.setLines l).link ch = s.link ch :=
  State.link_congr rfl ch
@[simp] theorem State.setSense_record (s : State) (l : Sense) (p : Pos) : (s.setSense l).record p = s.record p :=
  State.record_congr rfl p
@[simp] theorem State.setSense_link (s : State) (l : Sense) (ch : Chan) : (s.setSense l).link ch = s.link ch :=
  State.link_congr rfl ch
@[simp] theorem State.setCsN_record (s : State) (b : Bool) (p : Pos) : (s.setCsN b).record p = s.record p :=
  State.record_congr rfl p
@[simp] theorem State.setCsN_link (s : State) (b : Bool) (ch : Chan) : (s.setCsN b).link ch = s.link ch :=
  State.link_congr rfl ch
@[simp] theorem State.setParams_record (s : State) (ps : Params) (p : Pos) : (s.setParams ps).record p = s.record p :=
  State.record_congr rfl p
@[simp] theorem State.setParams_link (s : State) (ps : Params) (ch : Chan) : (s.setParams ps).link ch = s.link ch :=
  State.link_congr rfl ch
@[simp] theorem State.setRoster_link (s : State) (v : Vector Record 30) (ch : Chan) : (s.setRoster v).link ch = s.link ch :=
  State.link_congr rfl ch
@[simp] theorem State.setAccrual_record (s : State) (n : Nat) (p : Pos) : (s.setAccrual n).record p = s.record p :=
  State.record_congr rfl p
@[simp] theorem State.setAccrual_link (s : State) (n : Nat) (ch : Chan) : (s.setAccrual n).link ch = s.link ch :=
  State.link_congr rfl ch
@[simp] theorem State.setLinks_record (s : State) (v : Vector Link 32) (p : Pos) : (s.setLinks v).record p = s.record p :=
  State.record_congr rfl p
@[simp] theorem State.setDownlinkSince_record (s : State) (t : Stamp) (p : Pos) : (s.setDownlinkSince t).record p = s.record p :=
  State.record_congr rfl p
@[simp] theorem State.setDownlinkSince_link (s : State) (t : Stamp) (ch : Chan) : (s.setDownlinkSince t).link ch = s.link ch :=
  State.link_congr rfl ch
@[simp] theorem State.setIntake_record (s : State) (i : Intake) (p : Pos) : (s.setIntake i).record p = s.record p :=
  State.record_congr rfl p
@[simp] theorem State.setIntake_link (s : State) (i : Intake) (ch : Chan) : (s.setIntake i).link ch = s.link ch :=
  State.link_congr rfl ch
@[simp] theorem State.setMatrix_record (s : State) (m : Matrix) (p : Pos) : (s.setMatrix m).record p = s.record p :=
  State.record_congr rfl p
@[simp] theorem State.setMatrix_link (s : State) (m : Matrix) (ch : Chan) : (s.setMatrix m).link ch = s.link ch :=
  State.link_congr rfl ch
@[simp] theorem State.setEngine_record (s : State) (e : Engine) (p : Pos) : (s.setEngine e).record p = s.record p :=
  State.record_congr rfl p
@[simp] theorem State.setEngine_link (s : State) (e : Engine) (ch : Chan) : (s.setEngine e).link ch = s.link ch :=
  State.link_congr rfl ch
@[simp] theorem State.setResult_record (s : State) (r : Option Result) (p : Pos) : (s.setResult r).record p = s.record p :=
  State.record_congr rfl p
@[simp] theorem State.setResult_link (s : State) (r : Option Result) (ch : Chan) : (s.setResult r).link ch = s.link ch :=
  State.link_congr rfl ch
@[simp] theorem State.setTables_record (s : State) (t : Tables) (p : Pos) : (s.setTables t).record p = s.record p :=
  State.record_congr rfl p
@[simp] theorem State.setTables_link (s : State) (t : Tables) (ch : Chan) : (s.setTables t).link ch = s.link ch :=
  State.link_congr rfl ch
@[simp] theorem State.setPublisher_record (s : State) (x : Publisher) (p : Pos) : (s.setPublisher x).record p = s.record p :=
  State.record_congr rfl p
@[simp] theorem State.setPublisher_link (s : State) (p : Publisher) (ch : Chan) : (s.setPublisher p).link ch = s.link ch :=
  State.link_congr rfl ch
@[simp] theorem State.setPort_record (s : State) (x : Port) (p : Pos) : (s.setPort x).record p = s.record p :=
  State.record_congr rfl p
@[simp] theorem State.setPort_link (s : State) (p : Port) (ch : Chan) : (s.setPort p).link ch = s.link ch :=
  State.link_congr rfl ch
@[simp] theorem State.setChoices_record (s : State) (n : Nat) (p : Pos) : (s.setChoices n).record p = s.record p :=
  State.record_congr rfl p
@[simp] theorem State.setChoices_link (s : State) (n : Nat) (ch : Chan) : (s.setChoices n).link ch = s.link ch :=
  State.link_congr rfl ch
@[simp] theorem State.setPending_record (s : State) (q : List Instr) (p : Pos) : (s.setPending q).record p = s.record p :=
  State.record_congr rfl p
@[simp] theorem State.setPending_link (s : State) (q : List Instr) (ch : Chan) : (s.setPending q).link ch = s.link ch :=
  State.link_congr rfl ch
@[simp] theorem State.setFlag_record (s : State) (f : Flag) (p : Pos) : (s.setFlag f).record p = s.record p :=
  State.record_congr rfl p
@[simp] theorem State.setFlag_link (s : State) (f : Flag) (ch : Chan) : (s.setFlag f).link ch = s.link ch :=
  State.link_congr rfl ch
@[simp] theorem State.setOrders_record (s : State) (l : List Entry) (p : Pos) : (s.setOrders l).record p = s.record p :=
  State.record_congr rfl p
@[simp] theorem State.setOrders_link (s : State) (l : List Entry) (ch : Chan) : (s.setOrders l).link ch = s.link ch :=
  State.link_congr rfl ch
@[simp] theorem State.setUnit_record (s : State) (u : FiringUnit) (p : Pos) : (s.setUnit u).record p = s.record p :=
  State.record_congr rfl p
@[simp] theorem State.setUnit_link (s : State) (u : FiringUnit) (ch : Chan) : (s.setUnit u).link ch = s.link ch :=
  State.link_congr rfl ch
@[simp] theorem State.setRecord_link (s : State) (q : Pos) (r : Record) (ch : Chan) :
    (s.setRecord q r).link ch = s.link ch := State.link_congr rfl ch
@[simp] theorem State.mapRecords_link (s : State) (f : Pos → Record → Record) (ch : Chan) :
    (s.mapRecords f).link ch = s.link ch := State.link_congr (State.mapRecords_links s f) ch
@[simp] theorem State.commitRoster_link (s : State) (l : List Pos) (ch : Chan) :
    (s.commitRoster l).link ch = s.link ch := State.link_congr (State.commitRoster_links s l) ch
@[simp] theorem State.setLink_record (s : State) (ch : Chan) (l : Link) (p : Pos) :
    (s.setLink ch l).record p = s.record p := State.record_congr rfl p
@[simp] theorem State.setRx_record (s : State) (ch : Chan) (r : Receiver) (p : Pos) :
    (s.setRx ch r).record p = s.record p := State.record_congr rfl p
@[simp] theorem State.setTx_record (s : State) (ch : Chan) (t : Transmitter) (p : Pos) :
    (s.setTx ch t).record p = s.record p := State.record_congr rfl p
@[simp] theorem State.answered_record (s : State) (tag : Byte) (r : Reply) (p : Pos) :
    (s.answered tag r).record p = s.record p := State.record_congr rfl p
@[simp] theorem State.answered_link (s : State) (tag : Byte) (r : Reply) (ch : Chan) :
    (s.answered tag r).link ch = s.link ch := State.link_congr rfl ch

/-! ## The indexes (R2) -/

/-- The indexes are read from the records alone. -/
theorem State.channelPos_congr {s t : State} (h : t.roster = s.roster) (ch : Chan) :
    t.channelPos ch = s.channelPos ch := by
  unfold State.channelPos
  simp only [State.record_congr h]

theorem State.serialPos_congr {s t : State} (h : t.roster = s.roster) (tag : BitVec 32) :
    t.serialPos tag = s.serialPos tag := by
  unfold State.serialPos
  simp only [State.record_congr h]

/-- The position an index answers holds the channel. -/
theorem State.channelPos_some {s : State} {ch : Chan} {p : Pos} (h : s.channelPos ch = some p) :
    (s.record p).channel = some ch := by
  simpa using List.find?_some h

/-- A channel that the index does not hold stands at no position. -/
theorem State.channelPos_none {s : State} {ch : Chan} (h : s.channelPos ch = none) (p : Pos) :
    (s.record p).channel ≠ some ch := by
  unfold State.channelPos at h
  rw [List.find?_eq_none] at h
  intro hc
  exact h p (by simp [allPositions]) (by simp [hc])

theorem State.serialPos_some {s : State} {tag : BitVec 32} {p : Pos} (h : s.serialPos tag = some p) :
    (s.record p).serial = some tag := by
  simpa using List.find?_some h

theorem State.serialPos_none {s : State} {tag : BitVec 32} (h : s.serialPos tag = none) (p : Pos) :
    (s.record p).serial ≠ some tag := by
  unfold State.serialPos at h
  rw [List.find?_eq_none] at h
  intro hc
  exact h p (by simp [allPositions]) (by simp [hc])

/-- A channel at one position alone is answered with it. -/
theorem State.channelPos_eq {s : State} {ch : Chan} {p : Pos} (h : (s.record p).channel = some ch)
    (hu : ∀ q, (s.record q).channel = some ch → q = p) : s.channelPos ch = some p := by
  cases hq : s.channelPos ch with
  | none => exact absurd h (State.channelPos_none hq p)
  | some q => rw [hu q (State.channelPos_some hq)]

theorem State.serialPos_eq {s : State} {tag : BitVec 32} {p : Pos} (h : (s.record p).serial = some tag)
    (hu : ∀ q, (s.record q).serial = some tag → q = p) : s.serialPos tag = some p := by
  cases hq : s.serialPos tag with
  | none => exact absurd h (State.serialPos_none hq p)
  | some q => rw [hu q (State.serialPos_some hq)]

/-! ## Levels -/

@[simp] theorem State.setMode_manride (s : State) (m : Mode) : (s.setMode m).manride = s.manride := rfl
@[simp] theorem State.setMode_estopN (s : State) (m : Mode) : (s.setMode m).estopN = s.estopN := rfl
@[simp] theorem State.setMode_brakeSet (s : State) (m : Mode) : (s.setMode m).brakeSet = s.brakeSet := rfl
@[simp] theorem State.setMode_energized (s : State) (m : Mode) : (s.setMode m).energized = s.energized := rfl
@[simp] theorem State.setMode_dirLower (s : State) (m : Mode) : (s.setMode m).dirLower = s.dirLower := rfl
@[simp] theorem State.setTime_manride (s : State) (t : Stamp) : (s.setTime t).manride = s.manride := rfl
@[simp] theorem State.setTime_estopN (s : State) (t : Stamp) : (s.setTime t).estopN = s.estopN := rfl
@[simp] theorem State.setTime_brakeSet (s : State) (t : Stamp) : (s.setTime t).brakeSet = s.brakeSet := rfl
@[simp] theorem State.setTime_energized (s : State) (t : Stamp) : (s.setTime t).energized = s.energized := rfl
@[simp] theorem State.setTime_dirLower (s : State) (t : Stamp) : (s.setTime t).dirLower = s.dirLower := rfl
@[simp] theorem State.setSense_manride (s : State) (l : Sense) : (s.setSense l).manride = s.manride := rfl
@[simp] theorem State.setSense_estopN (s : State) (l : Sense) : (s.setSense l).estopN = s.estopN := rfl
@[simp] theorem State.setSense_brakeSet (s : State) (l : Sense) : (s.setSense l).brakeSet = s.brakeSet := rfl
@[simp] theorem State.setSense_energized (s : State) (l : Sense) : (s.setSense l).energized = s.energized := rfl
@[simp] theorem State.setSense_dirLower (s : State) (l : Sense) : (s.setSense l).dirLower = s.dirLower := rfl
@[simp] theorem State.setCsN_manride (s : State) (b : Bool) : (s.setCsN b).manride = s.manride := rfl
@[simp] theorem State.setCsN_estopN (s : State) (b : Bool) : (s.setCsN b).estopN = s.estopN := rfl
@[simp] theorem State.setCsN_brakeSet (s : State) (b : Bool) : (s.setCsN b).brakeSet = s.brakeSet := rfl
@[simp] theorem State.setCsN_energized (s : State) (b : Bool) : (s.setCsN b).energized = s.energized := rfl
@[simp] theorem State.setCsN_dirLower (s : State) (b : Bool) : (s.setCsN b).dirLower = s.dirLower := rfl
@[simp] theorem State.setParams_manride (s : State) (ps : Params) : (s.setParams ps).manride = s.manride := rfl
@[simp] theorem State.setParams_estopN (s : State) (ps : Params) : (s.setParams ps).estopN = s.estopN := rfl
@[simp] theorem State.setParams_brakeSet (s : State) (ps : Params) : (s.setParams ps).brakeSet = s.brakeSet := rfl
@[simp] theorem State.setParams_energized (s : State) (ps : Params) : (s.setParams ps).energized = s.energized := rfl
@[simp] theorem State.setParams_dirLower (s : State) (ps : Params) : (s.setParams ps).dirLower = s.dirLower := rfl
@[simp] theorem State.setRoster_manride (s : State) (v : Vector Record 30) : (s.setRoster v).manride = s.manride := rfl
@[simp] theorem State.setRoster_estopN (s : State) (v : Vector Record 30) : (s.setRoster v).estopN = s.estopN := rfl
@[simp] theorem State.setRoster_brakeSet (s : State) (v : Vector Record 30) : (s.setRoster v).brakeSet = s.brakeSet := rfl
@[simp] theorem State.setRoster_energized (s : State) (v : Vector Record 30) : (s.setRoster v).energized = s.energized := rfl
@[simp] theorem State.setRoster_dirLower (s : State) (v : Vector Record 30) : (s.setRoster v).dirLower = s.dirLower := rfl
@[simp] theorem State.setAccrual_manride (s : State) (n : Nat) : (s.setAccrual n).manride = s.manride := rfl
@[simp] theorem State.setAccrual_estopN (s : State) (n : Nat) : (s.setAccrual n).estopN = s.estopN := rfl
@[simp] theorem State.setAccrual_brakeSet (s : State) (n : Nat) : (s.setAccrual n).brakeSet = s.brakeSet := rfl
@[simp] theorem State.setAccrual_energized (s : State) (n : Nat) : (s.setAccrual n).energized = s.energized := rfl
@[simp] theorem State.setAccrual_dirLower (s : State) (n : Nat) : (s.setAccrual n).dirLower = s.dirLower := rfl
@[simp] theorem State.setLinks_manride (s : State) (v : Vector Link 32) : (s.setLinks v).manride = s.manride := rfl
@[simp] theorem State.setLinks_estopN (s : State) (v : Vector Link 32) : (s.setLinks v).estopN = s.estopN := rfl
@[simp] theorem State.setLinks_brakeSet (s : State) (v : Vector Link 32) : (s.setLinks v).brakeSet = s.brakeSet := rfl
@[simp] theorem State.setLinks_energized (s : State) (v : Vector Link 32) : (s.setLinks v).energized = s.energized := rfl
@[simp] theorem State.setLinks_dirLower (s : State) (v : Vector Link 32) : (s.setLinks v).dirLower = s.dirLower := rfl
@[simp] theorem State.setDownlinkSince_manride (s : State) (t : Stamp) : (s.setDownlinkSince t).manride = s.manride := rfl
@[simp] theorem State.setDownlinkSince_estopN (s : State) (t : Stamp) : (s.setDownlinkSince t).estopN = s.estopN := rfl
@[simp] theorem State.setDownlinkSince_brakeSet (s : State) (t : Stamp) : (s.setDownlinkSince t).brakeSet = s.brakeSet := rfl
@[simp] theorem State.setDownlinkSince_energized (s : State) (t : Stamp) : (s.setDownlinkSince t).energized = s.energized := rfl
@[simp] theorem State.setDownlinkSince_dirLower (s : State) (t : Stamp) : (s.setDownlinkSince t).dirLower = s.dirLower := rfl
@[simp] theorem State.setIntake_manride (s : State) (i : Intake) : (s.setIntake i).manride = s.manride := rfl
@[simp] theorem State.setIntake_estopN (s : State) (i : Intake) : (s.setIntake i).estopN = s.estopN := rfl
@[simp] theorem State.setIntake_brakeSet (s : State) (i : Intake) : (s.setIntake i).brakeSet = s.brakeSet := rfl
@[simp] theorem State.setIntake_energized (s : State) (i : Intake) : (s.setIntake i).energized = s.energized := rfl
@[simp] theorem State.setIntake_dirLower (s : State) (i : Intake) : (s.setIntake i).dirLower = s.dirLower := rfl
@[simp] theorem State.setMatrix_manride (s : State) (m : Matrix) : (s.setMatrix m).manride = s.manride := rfl
@[simp] theorem State.setMatrix_estopN (s : State) (m : Matrix) : (s.setMatrix m).estopN = s.estopN := rfl
@[simp] theorem State.setMatrix_brakeSet (s : State) (m : Matrix) : (s.setMatrix m).brakeSet = s.brakeSet := rfl
@[simp] theorem State.setMatrix_energized (s : State) (m : Matrix) : (s.setMatrix m).energized = s.energized := rfl
@[simp] theorem State.setMatrix_dirLower (s : State) (m : Matrix) : (s.setMatrix m).dirLower = s.dirLower := rfl
@[simp] theorem State.setEngine_manride (s : State) (e : Engine) : (s.setEngine e).manride = s.manride := rfl
@[simp] theorem State.setEngine_estopN (s : State) (e : Engine) : (s.setEngine e).estopN = s.estopN := rfl
@[simp] theorem State.setEngine_brakeSet (s : State) (e : Engine) : (s.setEngine e).brakeSet = s.brakeSet := rfl
@[simp] theorem State.setEngine_energized (s : State) (e : Engine) : (s.setEngine e).energized = s.energized := rfl
@[simp] theorem State.setEngine_dirLower (s : State) (e : Engine) : (s.setEngine e).dirLower = s.dirLower := rfl
@[simp] theorem State.setResult_manride (s : State) (r : Option Result) : (s.setResult r).manride = s.manride := rfl
@[simp] theorem State.setResult_estopN (s : State) (r : Option Result) : (s.setResult r).estopN = s.estopN := rfl
@[simp] theorem State.setResult_brakeSet (s : State) (r : Option Result) : (s.setResult r).brakeSet = s.brakeSet := rfl
@[simp] theorem State.setResult_energized (s : State) (r : Option Result) : (s.setResult r).energized = s.energized := rfl
@[simp] theorem State.setResult_dirLower (s : State) (r : Option Result) : (s.setResult r).dirLower = s.dirLower := rfl
@[simp] theorem State.setTables_manride (s : State) (t : Tables) : (s.setTables t).manride = s.manride := rfl
@[simp] theorem State.setTables_estopN (s : State) (t : Tables) : (s.setTables t).estopN = s.estopN := rfl
@[simp] theorem State.setTables_brakeSet (s : State) (t : Tables) : (s.setTables t).brakeSet = s.brakeSet := rfl
@[simp] theorem State.setTables_energized (s : State) (t : Tables) : (s.setTables t).energized = s.energized := rfl
@[simp] theorem State.setTables_dirLower (s : State) (t : Tables) : (s.setTables t).dirLower = s.dirLower := rfl
@[simp] theorem State.setPublisher_manride (s : State) (p : Publisher) : (s.setPublisher p).manride = s.manride := rfl
@[simp] theorem State.setPublisher_estopN (s : State) (p : Publisher) : (s.setPublisher p).estopN = s.estopN := rfl
@[simp] theorem State.setPublisher_brakeSet (s : State) (p : Publisher) : (s.setPublisher p).brakeSet = s.brakeSet := rfl
@[simp] theorem State.setPublisher_energized (s : State) (p : Publisher) : (s.setPublisher p).energized = s.energized := rfl
@[simp] theorem State.setPublisher_dirLower (s : State) (p : Publisher) : (s.setPublisher p).dirLower = s.dirLower := rfl
@[simp] theorem State.setPort_manride (s : State) (p : Port) : (s.setPort p).manride = s.manride := rfl
@[simp] theorem State.setPort_estopN (s : State) (p : Port) : (s.setPort p).estopN = s.estopN := rfl
@[simp] theorem State.setPort_brakeSet (s : State) (p : Port) : (s.setPort p).brakeSet = s.brakeSet := rfl
@[simp] theorem State.setPort_energized (s : State) (p : Port) : (s.setPort p).energized = s.energized := rfl
@[simp] theorem State.setPort_dirLower (s : State) (p : Port) : (s.setPort p).dirLower = s.dirLower := rfl
@[simp] theorem State.setChoices_manride (s : State) (n : Nat) : (s.setChoices n).manride = s.manride := rfl
@[simp] theorem State.setChoices_estopN (s : State) (n : Nat) : (s.setChoices n).estopN = s.estopN := rfl
@[simp] theorem State.setChoices_brakeSet (s : State) (n : Nat) : (s.setChoices n).brakeSet = s.brakeSet := rfl
@[simp] theorem State.setChoices_energized (s : State) (n : Nat) : (s.setChoices n).energized = s.energized := rfl
@[simp] theorem State.setChoices_dirLower (s : State) (n : Nat) : (s.setChoices n).dirLower = s.dirLower := rfl
@[simp] theorem State.setPending_manride (s : State) (q : List Instr) : (s.setPending q).manride = s.manride := rfl
@[simp] theorem State.setPending_estopN (s : State) (q : List Instr) : (s.setPending q).estopN = s.estopN := rfl
@[simp] theorem State.setPending_brakeSet (s : State) (q : List Instr) : (s.setPending q).brakeSet = s.brakeSet := rfl
@[simp] theorem State.setPending_energized (s : State) (q : List Instr) : (s.setPending q).energized = s.energized := rfl
@[simp] theorem State.setPending_dirLower (s : State) (q : List Instr) : (s.setPending q).dirLower = s.dirLower := rfl
@[simp] theorem State.setFlag_manride (s : State) (f : Flag) : (s.setFlag f).manride = s.manride := rfl
@[simp] theorem State.setFlag_estopN (s : State) (f : Flag) : (s.setFlag f).estopN = s.estopN := rfl
@[simp] theorem State.setFlag_brakeSet (s : State) (f : Flag) : (s.setFlag f).brakeSet = s.brakeSet := rfl
@[simp] theorem State.setFlag_energized (s : State) (f : Flag) : (s.setFlag f).energized = s.energized := rfl
@[simp] theorem State.setFlag_dirLower (s : State) (f : Flag) : (s.setFlag f).dirLower = s.dirLower := rfl
@[simp] theorem State.setOrders_manride (s : State) (l : List Entry) : (s.setOrders l).manride = s.manride := rfl
@[simp] theorem State.setOrders_estopN (s : State) (l : List Entry) : (s.setOrders l).estopN = s.estopN := rfl
@[simp] theorem State.setOrders_brakeSet (s : State) (l : List Entry) : (s.setOrders l).brakeSet = s.brakeSet := rfl
@[simp] theorem State.setOrders_energized (s : State) (l : List Entry) : (s.setOrders l).energized = s.energized := rfl
@[simp] theorem State.setOrders_dirLower (s : State) (l : List Entry) : (s.setOrders l).dirLower = s.dirLower := rfl
@[simp] theorem State.setUnit_manride (s : State) (u : FiringUnit) : (s.setUnit u).manride = s.manride := rfl
@[simp] theorem State.setUnit_estopN (s : State) (u : FiringUnit) : (s.setUnit u).estopN = s.estopN := rfl
@[simp] theorem State.setUnit_brakeSet (s : State) (u : FiringUnit) : (s.setUnit u).brakeSet = s.brakeSet := rfl
@[simp] theorem State.setUnit_energized (s : State) (u : FiringUnit) : (s.setUnit u).energized = s.energized := rfl
@[simp] theorem State.setUnit_dirLower (s : State) (u : FiringUnit) : (s.setUnit u).dirLower = s.dirLower := rfl

end Sys2Proof.Machine
end

