-- ==== Sys2Proof/Laws/Moves.lean ====
section
/-! SUPPORT. What a step can do, said once: every command, and the idle step, is a sequence of the
elementary changes of `Move`. An invariant that each elementary change keeps is kept by every step. -/

namespace Sys2Proof.Machine

/-- What the spec lets happen to one record in one place (R5 to R18, R28, R29, R38, R39), with the
parameters and the engine state it happens under. `amend` marks the host's two ways of releasing a
QUARANTINED record (R19). -/
inductive RecordMove (ps : Params) (st : EngineState) (amend : Bool) : Record → Record → Prop where
  | contact (r : Record) (c : Contact) : RecordMove ps st amend r { r with contact := c }
  | run (r : Record) : RecordMove ps st amend r { r with cleanRun := some 0 }
  | measured (r : Record) (f : UplinkFields) (clean : Bool) : RecordMove ps st amend r (r.measured f clean)
  | faulted (r : Record) (c : FaultCause) (t : Stamp) (prov : Bool) (h : r.state.active = true) :
      RecordMove ps st amend r (r.faultTaken c t prov)
  | contactOpen (r : Record) (t : Stamp) : RecordMove ps st amend r (r.contactOpenTaken t)
  | ordinary (r : Record) : RecordMove ps st amend r r.madeOrdinary
  | restored (r : Record) : RecordMove ps st amend r r.restored
  | granted (r : Record) : RecordMove ps st amend r r.closeGranted
  | completed (r : Record) : RecordMove ps st amend r (r.closeCompleted ps.qLim)
  | timedOut (r : Record) : RecordMove ps st amend r r.closeTimedOut
  | openConfirmed (r : Record) : RecordMove ps st amend r (r.openConfirmed ps.tPROB)
  | openEnded (r : Record) : RecordMove ps st amend r r.openEnded
  | second (r : Record) : RecordMove ps st amend r r.secondPassed
  | probationDone (r : Record) (h : r.state = .probation) : RecordMove ps st amend r r.probationCompleted
  | follow (r : Record) (closed : Bool) (h : st = .config) :
      RecordMove ps st amend r (r.follow closed ps.qLim)
  | readmitted (r : Record) (h : r.state = .bypassed) :
      RecordMove ps st amend r { r with state := .opening }
  | relisted (r : Record) : RecordMove ps st amend r { r with closeFailed := false }
  | retired (r : Record) (h : amend = true) : RecordMove ps st amend r r.retired
  | tallyCleared (r : Record) (h : amend = true) : RecordMove ps st amend r r.tallyCleared

/-- What can happen to an error score (R37, R42). -/
def LinkMove (l l' : Link) : Prop :=
  l'.rx.score = l.rx.score ∨ l'.rx.score = l.rx.score - 1 ∨ l'.rx.score = scoreAfterBad l.rx.score

/-- What can happen to the engine: no change leads to CONFIG (R94), and the attempt count stands, is
raised from below the limit in force (R102), becomes 1 (R115) or 0 (R112). -/
def EngineMove (ps : Params) (manride : Bool) (e e' : Engine) : Prop :=
  (e'.state = e.state ∨ e'.state ≠ .config) ∧
  (e'.attempts = e.attempts ∨ e'.attempts = 0 ∨ e'.attempts = 1 ∨
    (e.attempts < ps.limitInForce manride ∧ e'.attempts = e.attempts + 1))

/-- What can happen to the generations (R157). -/
def PublisherMove (p p' : Publisher) : Prop :=
  (p'.published = p.published ∧ p'.adopted = p.adopted) ∨
  (p'.published = p.adopted + 1 ∧ p'.adopted = p.adopted) ∨
  (p'.published = p.published ∧ p'.adopted = p.published)

/-- What can happen to the tables (R142, R143, R146). -/
inductive TablesMove : Tables → Tables → Prop where
  | load (t : Tables) (e : ShiftEntry) (hk : e.key.valid = true)
      (ha : anglesWellFormed e.hi e.ij e.jh = true) (hf : e.fsh ≤ 10000)
      (h : (findShift t.shift e.key).isSome = false) (hl : t.shift.length < 64) :
      TablesMove t { t with shift := insertShift e t.shift }
  | replace (t : Tables) (e : ShiftEntry) (hk : e.key.valid = true)
      (ha : anglesWellFormed e.hi e.ij e.jh = true) (hf : e.fsh ≤ 10000)
      (h : (findShift t.shift e.key).isSome = true) :
      TablesMove t { t with shift := replaceShift e t.shift }
  | drop (t : Tables) (k : Key) : TablesMove t { t with shift := t.shift.filter fun e => !(e.key == k) }
  | scale (t : Tables) (i : Fin 16) (ramp proving : Nat) :
      TablesMove t { t with
        scale := t.scale.set i { ramp := clampTo 1 64 ramp, proving := clampTo 20 150 proving } }

/-- What the command at hand may do beyond the part's own rules: release the record of a position, reset
the part. -/
structure Grants where
  releases : Pos → Bool
  resets : Bool

/-- What a command is granted. -/
def Instr.grants (c : Instr) : Grants where
  releases := Instr.releases c
  resets := Instr.resets c

/-- The grants of a step that takes no command. -/
def Grants.none : Grants where
  releases := fun _ => false
  resets := false

/-- One elementary change of the state. -/
inductive Move (may : Grants) : State → State → Prop where
  | aside (s t : State) (h1 : t.params = s.params) (h2 : t.roster = s.roster) (h3 : t.links = s.links)
      (h4 : t.engine = s.engine) (h5 : t.tables = s.tables) (h6 : t.publisher = s.publisher) :
      Move may s t
  | record (s : State) (p : Pos) (r : Record)
      (h : RecordMove s.params s.engine.state (may.releases p) (s.record p) r) : Move may s (s.setRecord p r)
  | records (s : State) (f : Pos → Record → Record)
      (h : ∀ p, f p (s.record p) = s.record p ∨
        RecordMove s.params s.engine.state (may.releases p) (s.record p) (f p (s.record p))) :
      Move may s (s.mapRecords f)
  | commit (s : State) (parked : List Pos) (h : s.engine.state ≠ .config) :
      Move may s (s.commitRoster parked)
  | enrol (s : State) (p : Pos) (ch : Chan) (serial : BitVec 32) (tally : Nat) (dormant : Bool)
      (h : s.enrolRefusal p ch serial = none) :
      Move may s (s.setRecord p ((s.record p).enrolled ch serial tally dormant s.params))
  | link (s : State) (ch : Chan) (l : Link) (h : LinkMove (s.link ch) l) : Move may s (s.setLink ch l)
  | transmitters (s : State) (f : Chan → Transmitter) :
      Move may s (s.setLinks (Vector.ofFn fun ch => { s.link ch with tx := f ch }))
  | engine (s : State) (e : Engine) (h : EngineMove s.params s.manride s.engine e) :
      Move may s (s.setEngine e)
  | publisher (s : State) (p : Publisher) (h : PublisherMove s.publisher p) :
      Move may s (s.setPublisher p)
  | tables (s : State) (t : Tables) (h : TablesMove s.tables t) : Move may s (s.setTables t)
  | params (s : State) (n lo hi v : Nat) (hr : paramRange n = some (lo, hi))
      (hc : s.engine.state = .config) :
      Move may s (s.setParams (s.params.store n (clampTo lo hi v)))
  | reset (s : State) (m : Mode) (r : ResetRecord) (h : may.resets = true) : Move may s (s.blocksReset m r)

/-- A sequence of elementary changes. -/
def Moves (may : Grants) : State → State → Prop := Relation.ReflTransGen (Move may)

theorem Moves.refl (a : Grants) (s : State) : Moves a s s := Relation.ReflTransGen.refl

theorem Moves.one {a : Grants} {s t : State} (h : Move a s t) : Moves a s t := Relation.ReflTransGen.single h

theorem Moves.next {a : Grants} {s t u : State} (h : Moves a s t) (h' : Moves a t u) : Moves a s u :=
  Relation.ReflTransGen.trans h h'

/-- An invariant of the elementary changes is an invariant of their sequences. -/
theorem Moves.keeps {a : Grants} {P : State → Prop} (hP : ∀ s t, Move a s t → P s → P t) {s t : State}
    (h : Moves a s t) (hs : P s) : P t := by
  induction h with
  | refl => exact hs
  | tail _ hm ih => exact hP _ _ hm ih

theorem Moves.foldl {a : Grants} {α : Type} (f : State → α → State) (hf : ∀ s x, Moves a s (f s x))
    (l : List α) (s : State) : Moves a s (l.foldl f s) := by
  induction l generalizing s with
  | nil => exact Moves.refl a s
  | cons x xs ih => exact (hf s x).next (ih (f s x))

/-! ## Small changes -/

theorem Moves.asideOf (a : Grants) (s t : State) (h1 : t.params = s.params) (h2 : t.roster = s.roster)
    (h3 : t.links = s.links) (h4 : t.engine = s.engine) (h5 : t.tables = s.tables)
    (h6 : t.publisher = s.publisher) : Moves a s t := Moves.one (.aside s t h1 h2 h3 h4 h5 h6)

theorem setFlag_moves (a : Grants) (s : State) (f : Flag) : Moves a s (s.setFlag f) :=
  Moves.asideOf a _ _ rfl rfl rfl rfl rfl rfl

theorem setOrders_moves (a : Grants) (s : State) (l : List Entry) : Moves a s (s.setOrders l) :=
  Moves.asideOf a _ _ rfl rfl rfl rfl rfl rfl

theorem setUnit_moves (a : Grants) (s : State) (u : FiringUnit) : Moves a s (s.setUnit u) :=
  Moves.asideOf a _ _ rfl rfl rfl rfl rfl rfl

theorem setPort_moves (a : Grants) (s : State) (p : Port) : Moves a s (s.setPort p) :=
  Moves.asideOf a _ _ rfl rfl rfl rfl rfl rfl

theorem setCsN_moves (a : Grants) (s : State) (b : Bool) : Moves a s (s.setCsN b) :=
  Moves.asideOf a _ _ rfl rfl rfl rfl rfl rfl

theorem answered_moves (a : Grants) (s : State) (tag : Byte) (r : Reply) : Moves a s (s.answered tag r) :=
  Moves.asideOf a _ _ rfl rfl rfl rfl rfl rfl

theorem listClose_moves (a : Grants) (s : State) (p : Pos) (t : Stamp) (m h : Bool) :
    Moves a s (s.listClose p t m h) := Moves.asideOf a _ _ rfl rfl rfl rfl rfl rfl

theorem listOpen_moves (a : Grants) (s : State) (p : Pos) (t : Stamp) : Moves a s (s.listOpen p t) :=
  Moves.asideOf a _ _ rfl rfl rfl rfl rfl rfl

theorem openWindow_moves (a : Grants) (s : State) (p : Pos) (c : Eligible) (t : Stamp) :
    Moves a s (s.openWindow p c t) := Moves.asideOf a _ _ rfl rfl rfl rfl rfl rfl

theorem record_moves {a : Grants} {s : State} {p : Pos} {r : Record}
    (h : RecordMove s.params s.engine.state (a.releases p) (s.record p) r) : Moves a s (s.setRecord p r) :=
  Moves.one (.record s p r h)

theorem clearRun_moves (a : Grants) (s : State) (p : Pos) : Moves a s (s.clearRun p) :=
  record_moves (.run _)

theorem closeCompletion_moves (a : Grants) (s : State) (p : Pos) : Moves a s (s.closeCompletion p) :=
  record_moves (.completed _)

theorem link_moves {a : Grants} {s : State} {ch : Chan} {l : Link} (h : LinkMove (s.link ch) l) :
    Moves a s (s.setLink ch l) := Moves.one (.link s ch l h)

/-- A receiver change that keeps the error score. -/
theorem setRx_kept (a : Grants) (s : State) (ch : Chan) (r : Receiver) (h : r.score = (s.link ch).rx.score) :
    Moves a s (s.setRx ch r) := link_moves (.inl h)

theorem setTx_moves (a : Grants) (s : State) (ch : Chan) (t : Transmitter) : Moves a s (s.setTx ch t) :=
  link_moves (.inl rfl)

theorem clearFaultReset_moves (a : Grants) (s : State) (ch : Chan) : Moves a s (s.clearFaultReset ch) :=
  setTx_moves a s ch _

theorem setFraming_moves (a : Grants) (s : State) (ch : Chan) (f : Option OpenFrame) :
    Moves a s (s.setFraming ch f) := link_moves (.inl rfl)

theorem engine_moves {a : Grants} {s : State} {e : Engine} (h : EngineMove s.params s.manride s.engine e) :
    Moves a s (s.setEngine e) := Moves.one (.engine s e h)

/-- An engine change that keeps state and count. -/
theorem engine_kept {ps : Params} {m : Bool} {e e' : Engine} (h : e'.state = e.state)
    (ha : e'.attempts = e.attempts) : EngineMove ps m e e' := ⟨.inl h, .inl ha⟩

theorem publisher_moves {a : Grants} {s : State} {p : Publisher} (h : PublisherMove s.publisher p) :
    Moves a s (s.setPublisher p) := Moves.one (.publisher s p h)

theorem setResult_moves (a : Grants) (s : State) (r : Option Result) : Moves a s (s.setResult r) :=
  Moves.asideOf a _ _ rfl rfl rfl rfl rfl rfl

theorem setIntake_moves (a : Grants) (s : State) (i : Intake) : Moves a s (s.setIntake i) :=
  Moves.asideOf a _ _ rfl rfl rfl rfl rfl rfl

theorem setMatrix_moves (a : Grants) (s : State) (m : Matrix) : Moves a s (s.setMatrix m) :=
  Moves.asideOf a _ _ rfl rfl rfl rfl rfl rfl

theorem setSense_moves (a : Grants) (s : State) (l : Sense) : Moves a s (s.setSense l) :=
  Moves.asideOf a _ _ rfl rfl rfl rfl rfl rfl

theorem setAccrual_moves (a : Grants) (s : State) (n : Nat) : Moves a s (s.setAccrual n) :=
  Moves.asideOf a _ _ rfl rfl rfl rfl rfl rfl

theorem setDownlinkSince_moves (a : Grants) (s : State) (t : Stamp) : Moves a s (s.setDownlinkSince t) :=
  Moves.asideOf a _ _ rfl rfl rfl rfl rfl rfl

theorem setLines_moves (a : Grants) (s : State) (l : Lines) : Moves a s (s.setLines l) :=
  Moves.asideOf a _ _ rfl rfl rfl rfl rfl rfl

/-! ## Shared operations of the engine -/

theorem endPass_moves (a : Grants) (s : State) (o : PassOutcome) : Moves a s (s.endPass o) := by
  unfold State.endPass
  split
  · exact engine_moves (engine_kept rfl rfl)
  · exact Moves.refl a s

theorem sampleLines_moves (a : Grants) (s : State) : Moves a s s.sampleLines :=
  engine_moves (engine_kept rfl rfl)

theorem openPass_moves (a : Grants) (s : State) (k : PassKind) : Moves a s (s.openPass k) :=
  engine_moves (engine_kept rfl rfl)

theorem applyContactOpen_moves (a : Grants) (s : State) (p : Pos) (t : Stamp) :
    Moves a s (s.applyContactOpen p t) := by
  have h : Moves a s ((s.setRecord p ((s.record p).contactOpenTaken t)).setFlag .faultTaken) :=
    (record_moves (.contactOpen _ _)).next (setFlag_moves a _ _)
  unfold State.applyContactOpen
  split
  · exact h.next (listClose_moves a _ _ _ _ _)
  · exact h

theorem openWithdrawn_moves (a : Grants) (s : State) (p : Pos) : Moves a s (s.openWithdrawn p) := by
  have h : Moves a s (s.setRecord p (s.record p).openEnded) := record_moves (.openEnded _)
  unfold State.openWithdrawn
  simp only
  split
  · exact h.next (applyContactOpen_moves a _ _ _)
  · exact h

theorem withdrawOpens_moves (a : Grants) (s : State) : Moves a s s.withdrawOpens :=
  (setOrders_moves a s _).next
    (Moves.foldl _ (fun t (e : Entry) => openWithdrawn_moves a t e.pos) _ _)

theorem changeState_moves (a : Grants) (s : State) (new : EngineState) (h : new ≠ .config) :
    Moves a s (s.changeState new) := by
  have h1 : Moves a s (((s.setEngine (s.engine.enter new)).setPublisher s.publisher.stopped).setFlag
      .stateChange) :=
    by
      refine ((engine_moves ?_).next (publisher_moves ?_)).next (setFlag_moves a _ _)
      · exact ⟨.inr h, .inl rfl⟩
      · exact .inl ⟨rfl, rfl⟩
  unfold State.changeState
  simp only
  split
  · exact h1.next (withdrawOpens_moves a _)
  · exact h1

theorem lockout_moves (a : Grants) (s : State) (c : LockoutCause) : Moves a s (s.lockout c) := by
  unfold State.lockout
  split
  · exact Moves.refl a s
  · simp only
    have h1 : Moves a s ((s.endPass .endedByLockout).changeState .lockout) :=
      (endPass_moves a s _).next (changeState_moves a _ _ (by decide))
    refine (h1.next (engine_moves ?_)).next (setFlag_moves a _ _)
    exact engine_kept rfl rfl

theorem publishEntry_moves (a : Grants) (s : State) (r : Result) : Moves a s (s.publishEntry r) := by
  refine publisher_moves (.inr (.inl ?_))
  unfold Publisher.transmit
  split <;> exact ⟨rfl, rfl⟩

theorem commit_moves (a : Grants) (s : State) (r : Result) (parked : List Pos)
    (h : s.engine.state ≠ .config) : Moves a s (s.commit r parked) := by
  have h2 := setResult_moves a (s.commitRoster parked) (some r)
  exact (((Moves.one (.commit s parked h)).next h2).next (changeState_moves a _ .publishing (by decide))).next
    (publishEntry_moves a _ _)

theorem runRebalance_moves (a : Grants) (s : State) (k : PassKind) (h : s.engine.state ≠ .config) :
    Moves a s (s.runRebalance k) := by
  unfold State.runRebalance
  simp only
  split
  · rename_i r parked _
    split
    · exact ((openPass_moves a s k).next (setFlag_moves a _ _)).next (commit_moves a _ _ _ h)
    · exact (openPass_moves a s k).next (commit_moves a _ _ _ h)
  · split
    · exact ((openPass_moves a s k).next (setFlag_moves a _ _)).next (lockout_moves a _ _)
    · exact (openPass_moves a s k).next (lockout_moves a _ _)

theorem exitTest_moves (a : Grants) (s : State) : Moves a s s.exitTest := by
  unfold State.exitTest
  split
  · rename_i h
    split
    · exact runRebalance_moves a s _ (by rw [h.1]; decide)
    · exact Moves.refl a s
  · exact Moves.refl a s

theorem enterBypassing_moves (a : Grants) (s : State) (k : PassKind) : Moves a s (s.enterBypassing k) := by
  unfold State.enterBypassing
  refine ((changeState_moves a s .bypassing (by decide)).next (engine_moves ?_)).next (exitTest_moves a _)
  exact engine_kept rfl rfl

theorem enterHalted_moves (a : Grants) (s : State) : Moves a s s.enterHalted := by
  unfold State.enterHalted
  simp only
  split
  · exact (changeState_moves a s .halted (by decide)).next (enterBypassing_moves a _ _)
  · exact (changeState_moves a s .halted (by decide)).next (engine_moves (engine_kept rfl rfl))

theorem accounting_moves (a : Grants) (s : State) : Moves a s s.accounting := by
  unfold State.accounting
  simp only
  split
  · rename_i h
    refine ((sampleLines_moves a s).next (engine_moves ?_)).next (enterHalted_moves a _)
    exact ⟨.inl rfl, .inr (.inr (.inr ⟨h, rfl⟩))⟩
  · exact (sampleLines_moves a s).next (lockout_moves a _ _)

theorem faultNotice_moves (a : Grants) (s : State) : Moves a s s.faultNotice := by
  unfold State.faultNotice
  split
  all_goals first
    | exact (endPass_moves a s _).next (accounting_moves a _)
    | exact exitTest_moves a s
    | exact Moves.refl a s

theorem enterRunning_moves (a : Grants) (s : State) : Moves a s s.enterRunning := by
  have h := changeState_moves a s .running (by decide)
  unfold State.enterRunning
  simp only
  split
  · split
    · exact h.next (engine_moves (engine_kept rfl rfl))
    · refine (h.next (engine_moves ?_)).next (setFlag_moves a _ _)
      exact engine_kept rfl rfl
  · exact h

theorem enterProving_moves (a : Grants) (s : State) : Moves a s s.enterProving :=
  (changeState_moves a s .proving (by decide)).next (engine_moves (engine_kept rfl rfl))

theorem verificationPassed_moves (a : Grants) (s : State) : Moves a s s.verificationPassed := by
  unfold State.verificationPassed
  split
  · split
    · exact enterRunning_moves a s
    · exact enterProving_moves a s
  · exact Moves.refl a s

theorem passTest_moves (a : Grants) (s : State) : Moves a s s.passTest := by
  unfold State.passTest
  split
  · exact verificationPassed_moves a s
  · exact Moves.refl a s

/-! ## Fault intake -/

theorem applyFault_moves (a : Grants) (s : State) (p : Pos) (c : FaultCause) (t : Stamp)
    (h : (s.record p).state.active = true) : Moves a s (s.applyFault p c t) := by
  unfold State.applyFault
  simp only
  have h1 : ∀ s1 : State, s1.roster = s.roster → Moves a s1
      ((s1.setRecord p ((s1.record p).faultTaken c t (s.provisionalCode c).isSome)).setFlag .faultTaken) := by
    intro s1 hr
    refine (record_moves (.faulted _ _ _ _ ?_)).next (setFlag_moves a _ _)
    rw [State.record_congr hr]; exact h
  cases hp : s.provisionalCode c with
  | none =>
    have h2 := h1 s rfl
    rw [hp] at h2
    simp only
    split
    · exact h2.next (closeCompletion_moves a _ _)
    · exact h2.next (listClose_moves a _ _ _ _ _)
  | some code =>
    have h2 := (openWindow_moves a s p code t).next (h1 (s.openWindow p code t) rfl)
    rw [hp] at h2
    simp only
    split
    · exact h2.next (closeCompletion_moves a _ _)
    · exact h2.next (listClose_moves a _ _ _ _ _)

theorem restoreMember_moves (a : Grants) (s : State) (p : Pos) : Moves a s (s.restoreMember p) :=
  (setOrders_moves a s _).next (record_moves (.restored _))

theorem closeRestored_moves (a : Grants) (s : State) (p : Pos) : Moves a s (s.closeRestored p) := by
  unfold State.closeRestored
  split
  · rename_i h
    exact applyFault_moves a s p _ _ h.1
  · exact Moves.refl a s

theorem restoreAll_moves (a : Grants) (s : State) (l : List Pos) : Moves a s (s.restoreAll l) :=
  ((Moves.foldl _ (restoreMember_moves a) _ _).next (lockout_moves a _ _)).next
    (Moves.foldl _ (closeRestored_moves a) _ _)

theorem judge_moves (a : Grants) (s : State) (c : Eligible) (p : Pos) (t : Stamp) :
    Moves a s (s.judge c p t) := by
  unfold State.judge
  split
  · exact (setIntake_moves a s _).next (restoreAll_moves a _ _)
  · exact (setIntake_moves a s _).next (restoreAll_moves a _ _)

theorem takeFault_moves (a : Grants) (s : State) (p : Pos) (c : FaultCause)
    (h : (s.record p).state.active = true) : Moves a s (s.takeFault p c) := by
  have h1 := applyFault_moves a s p c s.time h
  unfold State.takeFault
  simp only
  split
  · split
    · exact h1.next (judge_moves a _ _ _ _)
    · exact h1.next (faultNotice_moves a _)
  · exact h1.next (faultNotice_moves a _)

theorem takeContactOpen_moves (a : Grants) (s : State) (p : Pos) : Moves a s (s.takeContactOpen p) := by
  have h1 := applyContactOpen_moves a s p s.time
  unfold State.takeContactOpen
  split
  all_goals first
    | exact h1.next (faultNotice_moves a _)
    | exact h1

theorem reportCode_moves (a : Grants) (s : State) (p : Pos) (c : CellCode) : Moves a s (s.reportCode p c) := by
  unfold State.reportCode
  split
  · split
    · rename_i h
      exact takeFault_moves a s p _ h.1
    · exact Moves.refl a s
  · exact Moves.refl a s

theorem reportLink_moves (a : Grants) (s : State) (p : Pos) (c : FaultCause) :
    Moves a s (s.reportLink p c) := by
  unfold State.reportLink
  split
  · rename_i h
    exact takeFault_moves a s p _ h.1
  · exact Moves.refl a s

theorem reportContact_moves (a : Grants) (s : State) (p : Pos) (closed : Bool) :
    Moves a s (s.reportContact p closed) := by
  unfold State.reportContact
  split
  · split
    · rename_i h
      exact takeFault_moves a s p _ h
    · exact Moves.refl a s
  · split
    · exact takeContactOpen_moves a s p
    · exact Moves.refl a s

theorem windowExpiry_moves (a : Grants) (s : State) (p : Pos) : Moves a s (s.windowExpiry p) := by
  unfold State.windowExpiry
  exact ((setIntake_moves a s _).next (setOrders_moves a _ _)).next (record_moves (.ordinary _))

theorem groupClose_moves (a : Grants) (s : State) (c : Eligible) : Moves a s (s.groupClose c) :=
  Moves.asideOf a _ _ rfl rfl rfl rfl rfl rfl

/-! ## Cell links -/

theorem badFrame_moves (a : Grants) (s : State) (ch : Chan) : Moves a s (s.badFrame ch) := by
  unfold State.badFrame
  simp only
  split
  · exact link_moves (.inr (.inr rfl))
  · split
    · exact ((link_moves (.inr (.inr rfl))).next (clearRun_moves a _ _)).next (reportLink_moves a _ _ _)
    · exact (link_moves (.inr (.inr rfl))).next (clearRun_moves a _ _)

theorem frameToRecord_moves (a : Grants) (s : State) (ch : Chan) (p : Pos) (f : UplinkFields) :
    Moves a s (s.frameToRecord ch p f) := by
  have h1 : ∀ b, Moves a s (s.setRecord p ((s.record p).measured f b)) := fun b => record_moves (.measured _ _ _)
  have h2 : ∀ b, Moves a s (if b = true then (s.setRecord p ((s.record p).measured f b)).clearFaultReset ch
      else s.setRecord p ((s.record p).measured f b)) := by
    intro b
    split
    · exact (h1 b).next (clearFaultReset_moves a _ _)
    · exact h1 b
  unfold State.frameToRecord
  simp only
  split
  · split
    · exact (h2 _).next (passTest_moves a _)
    · exact h2 _
  · exact (h2 _).next (reportCode_moves a _ _ _)

theorem acceptFrame_moves (a : Grants) (s : State) (ch : Chan) (f : UplinkFields) :
    Moves a s (s.acceptFrame ch f) := by
  have h1 : Moves a s (s.setRx ch ((s.link ch).rx.accepted f.seq s.time)) := link_moves (.inr (.inl rfl))
  unfold State.acceptFrame
  simp only
  split
  · exact h1.next (frameToRecord_moves a _ _ _ _)
  · exact h1.next (setFlag_moves a _ _)

theorem duplicateFrame_moves (a : Grants) (s : State) (ch : Chan) : Moves a s (s.duplicateFrame ch) := by
  unfold State.duplicateFrame
  simp only
  have h1 : Moves a s (if (s.link ch).rx.link = .live
      then s.setRx ch { (s.link ch).rx with silence := some s.time } else s) := by
    split
    · exact link_moves (.inl rfl)
    · exact Moves.refl a s
  split_ifs at h1 ⊢
  all_goals first
    | exact h1
    | exact h1.next (setFlag_moves a _ _)

theorem checkFrame_moves (a : Grants) (s : State) (ch : Chan) (b0 b1 b2 b3 b4 : Byte) :
    Moves a s (s.checkFrame ch b0 b1 b2 b3 b4) := by
  unfold State.checkFrame State.validFrame
  split
  · split
    · exact duplicateFrame_moves a s ch
    · exact acceptFrame_moves a s ch _
  · exact badFrame_moves a s ch

theorem closeFrame_moves (a : Grants) (s : State) (ch : Chan) (f : OpenFrame) :
    Moves a s (s.closeFrame ch f) := by
  have h := setFraming_moves a s ch none
  unfold State.closeFrame
  simp only
  split
  · exact h.next (badFrame_moves a _ _)
  · split
    · exact h.next (checkFrame_moves a _ _ _ _ _ _ _)
    · exact h.next (badFrame_moves a _ _)

theorem uplinkWord_moves (a : Grants) (s : State) (ch : Chan) (w : BitVec 12) :
    Moves a s (s.uplinkWord ch w) := by
  unfold State.uplinkWord
  split
  · unfold State.markerWord
    simp only
    split
    · exact ((setFraming_moves a s ch none).next (badFrame_moves a _ _)).next (setFraming_moves a _ _ _)
    · exact setFraming_moves a s ch _
  · unfold State.continuationWord
    split
    · exact badFrame_moves a s ch
    · simp only
      split
      · exact closeFrame_moves a s ch _
      · exact setFraming_moves a s ch _

theorem silenceDetected_moves (a : Grants) (s : State) (ch : Chan) : Moves a s (s.silenceDetected ch) := by
  unfold State.silenceDetected
  simp only
  split
  · refine ((setRx_kept a s ch _ ?_).next (clearRun_moves a _ _)).next (reportLink_moves a _ _ _)
    rfl
  · refine setRx_kept a s ch _ ?_
    rfl

theorem downlinkBoundary_moves (a : Grants) (s : State) : Moves a s s.downlinkBoundary := by
  unfold State.downlinkBoundary
  exact (Moves.one (.transmitters s _)).next (setDownlinkSince_moves a _ _)

theorem framingAfterBad_moves (a : Grants) (s : State) (ch : Chan) (k : BadKind) :
    Moves a s (s.framingAfterBad ch k) := by
  cases k with
  | interrupted w => exact setFraming_moves a s ch _
  | stray w => exact Moves.refl a s
  | condemned => exact Moves.refl a s
  | checksum => exact Moves.refl a s

/-! ## Switch matrix -/

theorem closeConfirmed_moves (a : Grants) (s : State) (p : Pos) : Moves a s (s.closeConfirmed p) :=
  (closeCompletion_moves a s p).next (setFlag_moves a _ _)

theorem setFaultReset_moves (a : Grants) (s : State) (p : Pos) : Moves a s (s.setFaultReset p) := by
  unfold State.setFaultReset
  split
  · exact setTx_moves a s _ _
  · exact Moves.refl a s

theorem openConfirmed_moves (a : Grants) (s : State) (p : Pos) : Moves a s (s.openConfirmed p) := by
  have h : Moves a s (s.setRecord p ((s.record p).openConfirmed s.params.tPROB)) :=
    record_moves (.openConfirmed _)
  unfold State.openConfirmed
  simp only
  split
  · exact (h.next (setFaultReset_moves a _ _)).next (setFlag_moves a _ _)
  · exact h.next (setFlag_moves a _ _)

theorem confirm_moves (a : Grants) (s : State) (p : Pos) (closed : Bool) : Moves a s (s.confirm p closed) := by
  unfold State.confirm
  split
  · split
    · split
      · exact ((closeConfirmed_moves a s p).next (setUnit_moves a _ _)).next (exitTest_moves a _)
      · exact (openConfirmed_moves a s p).next (setUnit_moves a _ _)
      · exact Moves.refl a s
      · exact Moves.refl a s
    · exact Moves.refl a s
  all_goals exact Moves.refl a s

theorem settledChange_moves (a : Grants) (s : State) (p : Pos) (closed : Bool) :
    Moves a s (s.settledChange p closed) := by
  have h : Moves a s ((s.setRecord p { s.record p with contact := contactOf closed }).confirm p closed) :=
    (record_moves (.contact _ _)).next (confirm_moves a _ _ _)
  unfold State.settledChange
  simp only
  split
  · rename_i hc
    exact h.next (record_moves (.follow _ _ hc))
  · exact h.next (reportContact_moves a _ _ _)

theorem setDebounce_moves (a : Grants) (s : State) (p : Pos) (d : Debounce) : Moves a s (s.setDebounce p d) :=
  Moves.asideOf a _ _ rfl rfl rfl rfl rfl rfl

theorem readContact_moves (a : Grants) (s : State) (p : Pos) (closed : Bool) :
    Moves a s (s.readContact p closed) := by
  unfold State.readContact
  simp only
  split
  · split
    · exact Moves.refl a s
    · split
      · exact (setDebounce_moves a s p _).next (settledChange_moves a _ _ _)
      · exact setDebounce_moves a s p _
  · exact setDebounce_moves a s p _

theorem dwellEnd_moves (a : Grants) (s : State) (x y z : Bool) : Moves a s (s.dwellEnd x y z) := by
  unfold State.dwellEnd
  exact ((((setSense_moves a s _).next (readContact_moves a _ _ _)).next
    (readContact_moves a _ _ _)).next (readContact_moves a _ _ _)).next (setMatrix_moves a _ _)

theorem holdOffExpiry_moves (a : Grants) (s : State) (p : Pos) : Moves a s (s.holdOffExpiry p) :=
  setOrders_moves a s _

theorem pulseStart_moves (a : Grants) (s : State) (p : Pos) (k : SwitchKind) :
    Moves a s (s.pulseStart p k) := by
  unfold State.pulseStart
  cases k with
  | toClose =>
    exact (setMatrix_moves a s _).next (record_moves (.granted _))
  | toOpen => exact setMatrix_moves a s _

theorem entryGrant_moves (a : Grants) (s : State) : Moves a s s.entryGrant := by
  unfold State.entryGrant
  split
  · unfold State.grant
    simp only
    split
    · exact ((setOrders_moves a s _).next (closeConfirmed_moves a _ _)).next (exitTest_moves a _)
    · exact (setOrders_moves a s _).next (openConfirmed_moves a _ _)
    all_goals exact (setOrders_moves a s _).next (pulseStart_moves a _ _ _)
  · exact Moves.refl a s

theorem pulseEnd_moves (a : Grants) (s : State) : Moves a s s.pulseEnd := by
  unfold State.pulseEnd
  split
  · exact Moves.asideOf a _ _ rfl rfl rfl rfl rfl rfl
  all_goals exact Moves.refl a s

theorem closeTimeout_moves (a : Grants) (s : State) : Moves a s s.closeTimeout := by
  unfold State.closeTimeout
  split
  · exact (((record_moves (.timedOut _)).next (setFlag_moves a _ _)).next (setUnit_moves a _ _)).next
      (lockout_moves a _ _)
  all_goals exact Moves.refl a s

theorem openTimeout_moves (a : Grants) (s : State) : Moves a s s.openTimeout := by
  unfold State.openTimeout
  split
  · exact ((record_moves (.openEnded _)).next (setFlag_moves a _ _)).next (setUnit_moves a _ _)
  all_goals exact Moves.refl a s

theorem recoveryEnd_moves (a : Grants) (s : State) : Moves a s s.recoveryEnd := by
  unfold State.recoveryEnd
  split
  · exact setUnit_moves a s _
  · exact setUnit_moves a s _
  all_goals exact Moves.refl a s

/-! ## Winder lines and running time -/

theorem enterCharging_moves (a : Grants) (s : State) : Moves a s s.enterCharging :=
  (changeState_moves a s .charging (by decide)).next (engine_moves (engine_kept rfl rfl))

theorem energizedRise_moves (a : Grants) (s : State) : Moves a s s.energizedRise := by
  unfold State.energizedRise
  split
  · exact enterCharging_moves a s
  · exact Moves.refl a s

theorem energizedFall_moves (a : Grants) (s : State) : Moves a s s.energizedFall := by
  unfold State.energizedFall
  split
  all_goals first
    | exact (endPass_moves a s _).next (changeState_moves a _ .dormant (by decide))
    | exact Moves.refl a s

theorem estopFall_moves (a : Grants) (s : State) : Moves a s s.estopFall := by
  unfold State.estopFall
  split
  all_goals first
    | exact lockout_moves a s _
    | exact Moves.refl a s

theorem brakeRise_moves (a : Grants) (s : State) : Moves a s s.brakeRise := by
  unfold State.brakeRise
  split
  · exact enterBypassing_moves a s _
  · exact Moves.refl a s

theorem provenRise_moves (a : Grants) (s : State) : Moves a s s.provenRise := by
  unfold State.provenRise
  split
  · exact enterRunning_moves a s
  · exact Moves.refl a s

theorem edge_moves (a : Grants) (s : State) (settled presented event : State → State)
    (h1 : Moves a s (settled s)) (h2 : Moves a s (presented s)) (h3 : ∀ t, Moves a t (event t)) :
    Moves a s (s.edge settled presented event) := by
  unfold State.edge
  split
  · exact h1.next (h3 _)
  · exact h2
  · exact h2

theorem graceExpiry_moves (a : Grants) (s : State) (h : s.graceDue = true) : Moves a s s.graceExpiry := by
  have hc : s.engine.state = .charging := by
    simp [State.graceDue] at h; exact h.1
  unfold State.graceExpiry
  split
  · exact enterBypassing_moves a s _
  · exact runRebalance_moves a s _ (by rw [hc]; decide)

theorem provingTimeout_moves (a : Grants) (s : State) : Moves a s s.provingTimeout :=
  (endPass_moves a s _).next (accounting_moves a _)

theorem cleanSecond_moves (a : Grants) (s : State) : Moves a s s.cleanSecond :=
  engine_moves (engine_kept rfl rfl)

theorem cleanEnd_moves (a : Grants) (s : State) : Moves a s s.cleanEnd :=
  engine_moves ⟨.inl rfl, .inr (.inl rfl)⟩

theorem runningSecond_moves (a : Grants) (s : State) : Moves a s s.runningSecond :=
  (setAccrual_moves a s _).next
    (Moves.one (.records _ _ fun _ => .inr (.second _)))

theorem probation_moves (a : Grants) (s : State) (p : Pos) (h : s.probationDue p = true) :
    Moves a s (s.setRecord p (s.record p).probationCompleted) := by
  refine record_moves (.probationDone _ ?_)
  unfold State.probationDue at h
  simp only [Bool.and_eq_true, beq_iff_eq] at h
  exact h.1

/-! ## Publication -/

theorem frameEnd_moves (a : Grants) (s : State) : Moves a s s.frameEnd := by
  unfold State.frameEnd
  split <;> exact publisher_moves (.inl ⟨rfl, rfl⟩)

theorem verifyingEntry_moves (a : Grants) (s : State) : Moves a s s.verifyingEntry := by
  unfold State.verifyingEntry
  simp only
  refine ((Moves.one (.records s _ ?_)).next (publisher_moves ?_)).next (passTest_moves a _)
  case refine_2 => exact .inl ⟨rfl, rfl⟩
  intro p
  split
  · exact .inr (.run _)
  · exact .inl rfl

theorem adoption_moves (a : Grants) (s : State) (g : BitVec 16) : Moves a s (s.adoption g) := by
  unfold State.adoption
  split
  · refine ((publisher_moves ?_).next (changeState_moves a _ .verifying (by decide))).next
      (verifyingEntry_moves a _)
    exact .inr (.inr ⟨rfl, rfl⟩)
  · exact Moves.refl a s

theorem setReceiver_moves (a : Grants) (s : State) (r : Option (List Byte)) : Moves a s (s.setReceiver r) :=
  publisher_moves (.inl ⟨rfl, rfl⟩)

theorem adoptionWord_moves (a : Grants) (s : State) (d : Byte) (i : Bool) : Moves a s (s.adoptionWord d i) := by
  unfold State.adoptionWord
  split
  · exact setReceiver_moves a s _
  · split
    · exact Moves.refl a s
    · split
      · refine (setReceiver_moves a s none).next ?_
        unfold State.adoptionClosed
        split
        · split
          · exact adoption_moves a _ _
          · exact Moves.refl a _
        · exact Moves.refl a _
      · exact setReceiver_moves a s _

theorem minExpiry_moves (a : Grants) (s : State) : Moves a s s.minExpiry :=
  by
  refine (publisher_moves ?_).next (passTest_moves a _)
  exact .inl ⟨rfl, rfl⟩

theorem verifyFail_moves (a : Grants) (s : State) (p : Pos) : Moves a s (s.verifyFail p) := by
  unfold State.verifyFail
  split
  · rename_i h
    exact applyFault_moves a s p _ _ h
  · exact Moves.refl a s

theorem verExpiry_moves (a : Grants) (s : State) : Moves a s s.verExpiry := by
  unfold State.verExpiry
  split
  · exact verificationPassed_moves a s
  · exact ((Moves.foldl _ (verifyFail_moves a) _ _).next (endPass_moves a _ _)).next (accounting_moves a _)

/-! ## Requests -/

theorem request_moves (a : Grants) (s : State) (tag : Byte) (op : State → Executed)
    (h : Moves a s (op s).state) : Moves a s (s.request tag op) := by
  unfold State.request State.whileRunning
  split
  · exact h.next (answered_moves a _ _ _)
  all_goals exact Moves.refl a s

/-- A request that only reads leaves the state as it is (R20). -/
theorem read_moves (a : Grants) {s t : State} (h : t = s) : Moves a s t := h ▸ Moves.refl a s

theorem requestLookup_state (p : Byte) (s : State) : (requestLookup p s).state = s := by
  unfold requestLookup; split <;> rfl

theorem requestFindChannel_state (c : Byte) (s : State) : (requestFindChannel c s).state = s := by
  unfold requestFindChannel; split
  · split <;> rfl
  · rfl

theorem requestFindSerial_state (n : BitVec 32) (s : State) : (requestFindSerial n s).state = s := by
  unfold requestFindSerial; split
  · rfl
  · split <;> rfl

theorem requestList_state (c : Byte) (s : State) : (requestList c s).state = s := by
  unfold requestList; split <;> rfl

theorem requestLinkStatus_state (c : Byte) (s : State) : (requestLinkStatus c s).state = s := by
  unfold requestLinkStatus; split <;> rfl

theorem requestGetParam_state (n : Byte) (s : State) : (requestGetParam n s).state = s := by
  unfold requestGetParam; split <;> rfl

theorem requestReadShift_state (k x y z : Byte) (s : State) : (requestReadShift k x y z s).state = s := by
  unfold requestReadShift; dsimp only; split
  · split
    · rfl
    · split <;> rfl
  · split
    · rfl
    · split <;> rfl
  · rfl

theorem requestReadScale_state (x d : Byte) (s : State) : (requestReadScale x d s).state = s := by
  unfold requestReadScale; split <;> rfl

theorem requestEnrol_moves (a : Grants) (p c : Byte) (n : BitVec 32) (t : Byte) (s : State) :
    Moves a s (requestEnrol p c n t s).state := by
  unfold requestEnrol
  split
  · split
    · exact Moves.refl a s
    · split
      · exact Moves.refl a s
      · rename_i h
        exact Moves.one (.enrol s _ _ _ _ _ h)
  all_goals exact Moves.refl a s

theorem requestRetire_moves (a : Grants) (p : Byte) (s : State)
    (ha : ∀ q, posOfByte p = some q → a.releases q = true) : Moves a s (requestRetire p s).state := by
  unfold requestRetire
  split
  · exact Moves.refl a s
  · rename_i q hq
    split
    · exact Moves.refl a s
    · split
      · exact Moves.refl a s
      · have h : Moves a s (s.unassign (s.record q).channel) := by
          unfold State.unassign
          split
          · exact clearFaultReset_moves a s _
          · exact Moves.refl a s
        have hr : (s.unassign (s.record q).channel).record q = s.record q := by
          unfold State.unassign
          split <;> rfl
        refine h.next ?_
        have h2 := Moves.one (Move.record (may := a) (s.unassign (s.record q).channel) q _
          (.retired _ (ha q hq)))
        rw [hr] at h2
        exact h2

theorem requestReadmit_moves (a : Grants) (p : Byte) (s : State) : Moves a s (requestReadmit p s).state := by
  unfold requestReadmit
  split
  · exact Moves.refl a s
  · split
    · exact Moves.refl a s
    · split
      · exact Moves.refl a s
      · rename_i h
        exact (record_moves (.readmitted _ (by simpa using h))).next (listOpen_moves a _ _ _)

theorem releasedOpen_moves (a : Grants) (s : State) (p : Pos) : Moves a s (s.releasedOpen p) := by
  unfold State.releasedOpen
  split
  · rename_i h
    exact record_moves (.follow _ _ h)
  · split
    · exact takeContactOpen_moves a s p
    · exact Moves.refl a s

theorem requestClearTally_moves (a : Grants) (k i : Byte) (s : State)
    (ha : ∀ scope, scopeOf k i = some scope → ∀ p, scope.contains p = true → a.releases p = true) :
    Moves a s (requestClearTally k i s).state := by
  unfold requestClearTally
  split
  · exact Moves.refl a s
  · rename_i scope hs
    dsimp only
    refine (Moves.one (.records s _ ?_)).next (Moves.foldl _ (releasedOpen_moves a) _ _)
    intro p
    split
    · rename_i hp
      exact .inr (.tallyCleared _ (ha scope hs p hp))
    · exact .inl rfl

theorem requestSetParam_moves (a : Grants) (n : Byte) (v : BitVec 32) (s : State) :
    Moves a s (requestSetParam n v s).state := by
  unfold requestSetParam
  split
  · exact Moves.refl a s
  · rename_i lo hi hr
    split
    · exact Moves.refl a s
    · rename_i hc
      have h := Moves.one (Move.params (may := a) s n.toNat lo hi v.toNat hr (by simpa using hc))
      dsimp only
      split
      · refine h.next ?_
        unfold State.detectSilences
        refine Moves.foldl _ (fun t ch => ?_) _ _
        split
        · exact silenceDetected_moves a t ch
        · exact Moves.refl a t
      · exact h

theorem requestStart_moves (a : Grants) (s : State) : Moves a s (requestStart s).state := by
  unfold requestStart
  split
  · exact Moves.refl a s
  · split
    · exact Moves.refl a s
    · have h1 : Moves a s (if s.energized = true then s.enterCharging else s.changeState .dormant) := by
        split
        · exact enterCharging_moves a s
        · exact changeState_moves a s _ (by decide)
      show Moves a s s.started
      unfold State.started
      dsimp only
      split
      · exact h1
      · exact h1.next (lockout_moves a _ _)

theorem clampTo_le (lo hi v : Nat) (h : lo ≤ hi) : lo ≤ clampTo lo hi v ∧ clampTo lo hi v ≤ hi := by
  unfold clampTo; omega

theorem tables_moves {a : Grants} {s : State} {t : Tables} (h : TablesMove s.tables t) :
    Moves a s (s.setTables t) := Moves.one (.tables s t h)

theorem requestLoadShift_moves (a : Grants) (h i j : Byte) (hi ij jh fsh : BitVec 16) (s : State) :
    Moves a s (requestLoadShift h i j hi ij jh fsh s).state := by
  unfold requestLoadShift
  simp only
  split
  · exact Moves.refl a s
  · rename_i hv
    split
    · exact Moves.refl a s
    · split
      · exact Moves.refl a s
      · rename_i hf
        simp only [Bool.or_eq_true, Bool.not_eq_true', not_or, Bool.not_eq_false] at hv
        have hm : min 10000 fsh.toNat ≤ 10000 := by omega
        cases hp : (findShift s.tables.shift (keyOfBytes h i j)).isSome with
        | true => exact tables_moves (.replace _ _ hv.1 hv.2 hm hp)
        | false =>
          refine tables_moves (.load _ _ hv.1 hv.2 hm hp ?_)
          rw [hp] at hf
          exact Nat.lt_of_not_le fun h64 => hf (by rw [Bool.not_false, Bool.true_and]; exact decide_eq_true h64)

theorem requestDropShift_moves (a : Grants) (h i j : Byte) (s : State) :
    Moves a s (requestDropShift h i j s).state := by
  unfold requestDropShift
  simp only
  split
  · exact Moves.refl a s
  · split
    · exact Moves.refl a s
    · split
      · exact Moves.refl a s
      · exact tables_moves (.drop _ _)

theorem requestLoadScale_moves (a : Grants) (x d r p : Byte) (s : State) :
    Moves a s (requestLoadScale x d r p s).state := by
  unfold requestLoadScale
  split
  · exact Moves.refl a s
  · split
    · exact Moves.refl a s
    · exact tables_moves (.scale _ _ _ _)

theorem relist_moves (a : Grants) (s : State) (p : Pos) : Moves a s (s.relist p) := by
  unfold State.relist
  split
  · exact (record_moves (.relisted _)).next (listClose_moves a _ _ _ _ _)
  · exact Moves.refl a s

theorem lockoutCleared_moves (a : Grants) (s : State) : Moves a s s.lockoutCleared := by
  have h := Moves.foldl State.relist (relist_moves a) allPositions s
  unfold State.lockoutCleared
  generalize List.foldl State.relist s allPositions = t at h
  have h2 : Moves a t (t.setEngine { t.engine with attempts := 1, cause := none }).sampleLines := by
    refine (engine_moves ?_).next (sampleLines_moves a _)
    exact ⟨.inl rfl, .inr (.inr (.inl rfl))⟩
  dsimp only
  split
  · exact (h.next h2).next (enterBypassing_moves a _ _)
  · exact (h.next h2).next (changeState_moves a _ .dormant (by decide))

theorem requestClearLockout_moves (a : Grants) (s : State) : Moves a s (requestClearLockout s).state := by
  unfold requestClearLockout
  split
  · exact Moves.refl a s
  · dsimp only
    exact lockoutCleared_moves a s

theorem requestAck_moves (a : Grants) (f : Byte) (s : State) : Moves a s (requestAck f s).state :=
  Moves.asideOf a _ _ rfl rfl rfl rfl rfl rfl

theorem requestSetMask_moves (a : Grants) (m : Byte) (s : State) : Moves a s (requestSetMask m s).state :=
  Moves.asideOf a _ _ rfl rfl rfl rfl rfl rfl

/-! ## Resets and the port -/

theorem requestReset_moves (a : Grants) (s : State) (ha : a.resets = true) : Moves a s s.requestReset :=
  (setCsN_moves a s true).next (Moves.one (.reset _ _ _ ha))

theorem whileRunning_moves (a : Grants) (s : State) (event : State → State) (h : Moves a s (event s)) :
    Moves a s (s.whileRunning event) := by
  unfold State.whileRunning
  split
  · exact h
  all_goals exact Moves.refl a s

theorem whenDue_moves (a : Grants) (s : State) (due : Bool) (event : State → State)
    (h : due = true → Moves a s (event s)) : Moves a s (s.whenDue due event) := by
  unfold State.whenDue
  refine whileRunning_moves a s _ ?_
  split
  · rename_i hd
    exact h hd
  · exact Moves.refl a s

theorem resetEnd_moves (a : Grants) (s : State) : Moves a s s.resetEnd := by
  unfold State.resetEnd
  split
  · exact Moves.asideOf a _ _ rfl rfl rfl rfl rfl rfl
  all_goals exact Moves.refl a s

theorem pinReset_moves (a : Grants) (s : State) (ha : a.resets = true) : Moves a s s.pinReset := by
  unfold State.pinReset
  split
  · exact Moves.one (.reset _ _ _ ha)
  · exact Moves.one (.reset _ _ _ ha)
  · exact Moves.refl a s

theorem perform_moves (a : Grants) (s : State) (i : Instr) (hl : ∀ p, Instr.namesRelease i p = true → a.releases p = true)
    (hr : Instr.namesReset i = true → a.resets = true) : Moves a s (s.perform i) := by
  cases i with
  | nop tag => exact request_moves a s _ _ (Moves.refl a s)
  | lookup tag p => exact request_moves a s _ _ (read_moves a (requestLookup_state p s))
  | findChannel tag c => exact request_moves a s _ _ (read_moves a (requestFindChannel_state c s))
  | findSerial tag n => exact request_moves a s _ _ (read_moves a (requestFindSerial_state n s))
  | list tag c => exact request_moves a s _ _ (read_moves a (requestList_state c s))
  | linkStatus tag c => exact request_moves a s _ _ (read_moves a (requestLinkStatus_state c s))
  | enrol tag p c n t => exact request_moves a s _ _ (requestEnrol_moves a p c n t s)
  | retire tag p =>
    refine request_moves a s _ _ (requestRetire_moves a p s ?_)
    intro q hq
    exact hl q (by simp [Instr.namesRelease, hq])
  | readmit tag p => exact request_moves a s _ _ (requestReadmit_moves a p s)
  | clearTally tag k i =>
    refine request_moves a s _ _ (requestClearTally_moves a k i s ?_)
    intro scope hs q hq
    exact hl q (by simpa [Instr.namesRelease, hs] using hq)
  | setParam tag n v => exact request_moves a s _ _ (requestSetParam_moves a n v s)
  | getParam tag n => exact request_moves a s _ _ (read_moves a (requestGetParam_state n s))
  | start tag => exact request_moves a s _ _ (requestStart_moves a s)
  | loadShift tag h i j x y z f => exact request_moves a s _ _ (requestLoadShift_moves a h i j x y z f s)
  | dropShift tag h i j => exact request_moves a s _ _ (requestDropShift_moves a h i j s)
  | readShift tag k x y z => exact request_moves a s _ _ (read_moves a (requestReadShift_state k x y z s))
  | loadScale tag x d r p => exact request_moves a s _ _ (requestLoadScale_moves a x d r p s)
  | readScale tag x d => exact request_moves a s _ _ (read_moves a (requestReadScale_state x d s))
  | summary tag => exact request_moves a s _ _ (Moves.refl a s)
  | clearLockout tag => exact request_moves a s _ _ (requestClearLockout_moves a s)
  | ack tag f => exact request_moves a s _ _ (requestAck_moves a f s)
  | setMask tag m => exact request_moves a s _ _ (requestSetMask_moves a m s)
  | readCause tag => exact request_moves a s _ _ (Moves.refl a s)
  | reset => exact whileRunning_moves a s _ (requestReset_moves a s (hr rfl))
  | _ => exact Moves.refl a s

theorem transactionBegin_moves (a : Grants) (s : State) : Moves a s s.transactionBegin := by
  have h := setCsN_moves a s false
  unfold State.transactionBegin
  split
  · split
    · unfold State.csFall
      split
      · exact h.next (setPort_moves a _ _)
      · exact h.next (setPort_moves a _ _)
      all_goals exact h
    all_goals exact h
  · exact Moves.refl a s

theorem transactionEnd_moves (s : State) (mosi : List Bool) :
    Moves (Instr.grants (.transactionEnd mosi)) s (s.transactionEnd mosi) := by
  generalize ha : Instr.grants (.transactionEnd mosi) = a
  have h := setCsN_moves a s true
  unfold State.transactionEnd
  split
  · exact Moves.refl a s
  · split
    · unfold State.csRise
      split
      · refine h.next ?_
        unfold State.served
        split
        · exact answered_moves a _ _ _
        · rename_i i hi
          have hg : Instr.carried (.transactionEnd mosi) = i := by simp only [Instr.carried, hi]
          subst ha
          refine perform_moves _ _ _ (fun p hp => ?_) (fun hr => ?_)
          · simpa only [Instr.grants, Instr.releases, hg] using hp
          · simpa only [Instr.grants, Instr.resets, hg] using hr
      · exact h.next (setPort_moves a _ _)
      · exact h.next (setPort_moves a _ _)
      all_goals exact h
    all_goals exact h

theorem answerReady_moves (a : Grants) (s : State) : Moves a s s.answerReady := by
  unfold State.answerReady
  split
  · exact setPort_moves a s _
  · exact setPort_moves a s _
  all_goals exact Moves.refl a s

/-! ## Every command, and the idle step -/

theorem execNext {s t : State} (h : (Host.Outcome.next s : Host.Outcome State Fault Refusal) = .next t) :
    s = t := by injection h

/-- A host request given directly is performed as from a frame. -/
theorem performed_moves (c : Instr) (s t : State) (he : exec c s = .next (s.perform c))
    (h : exec c s = .next t) : Moves (Instr.grants c) s t := by
  rw [he] at h
  cases execNext h
  cases c with
  | transactionEnd mosi => exact Moves.refl _ s
  | _ => exact perform_moves _ s _ (fun _ hp => hp) fun hr => hr

/-- Every command is a sequence of elementary changes, with what the command is granted. -/
theorem exec_moves (i : Instr) (s t : State) (h : exec i s = .next t) : Moves (Instr.grants i) s t := by
  cases i with
  | transactionBegin =>
    cases execNext h
    exact transactionBegin_moves _ s
  | transactionEnd m =>
    cases execNext h
    exact transactionEnd_moves s m
  | answerReady =>
    cases execNext h
    exact whileRunning_moves _ s _ (answerReady_moves _ s)
  | powerOnReset =>
    cases execNext h
    exact Moves.one (.reset s _ _ rfl)
  | pinReset =>
    cases execNext h
    exact pinReset_moves _ s rfl
  | resetEnd =>
    cases execNext h
    exact resetEnd_moves _ s
  | supplyLoss =>
    cases execNext h
    exact Moves.one (.reset s _ _ rfl)
  | uplinkFrame ch b0 b1 b2 b3 b4 =>
    cases execNext h
    exact whileRunning_moves _ s _ ((setFraming_moves _ s ch none).next (checkFrame_moves _ _ ch b0 b1 b2 b3 b4))
  | badFrame ch k =>
    cases execNext h
    exact whileRunning_moves _ s _ (((setFraming_moves _ s ch none).next (badFrame_moves _ _ ch)).next (framingAfterBad_moves _ _ ch k))
  | silenceDetected ch =>
    cases execNext h
    exact whenDue_moves _ s _ _ fun _ => silenceDetected_moves _ s ch
  | downlinkBoundary =>
    cases execNext h
    exact whenDue_moves _ s _ _ fun _ => downlinkBoundary_moves _ s
  | windowExpiry p =>
    cases execNext h
    exact whenDue_moves _ s _ _ fun _ => windowExpiry_moves _ s p
  | groupClose c =>
    cases execNext h
    exact whenDue_moves _ s _ _ fun _ => groupClose_moves _ s c
  | scanDwellEnd x y z =>
    cases execNext h
    exact whenDue_moves _ s _ _ fun _ => dwellEnd_moves _ s x y z
  | holdOffExpiry p =>
    cases execNext h
    exact whenDue_moves _ s _ _ fun _ => holdOffExpiry_moves _ s p
  | entryGrant =>
    cases execNext h
    exact whenDue_moves _ s _ _ fun _ => entryGrant_moves _ s
  | pulseEnd =>
    cases execNext h
    exact whenDue_moves _ s _ _ fun _ => pulseEnd_moves _ s
  | closeTimeout =>
    cases execNext h
    exact whenDue_moves _ s _ _ fun _ => closeTimeout_moves _ s
  | openTimeout =>
    cases execNext h
    exact whenDue_moves _ s _ _ fun _ => openTimeout_moves _ s
  | recoveryEnd =>
    cases execNext h
    exact whenDue_moves _ s _ _ fun _ => recoveryEnd_moves _ s
  | energizedRising =>
    cases execNext h
    exact edge_moves _ s _ _ _ (setLines_moves _ s _) (setLines_moves _ s _) (energizedRise_moves _)
  | energizedFalling =>
    cases execNext h
    exact edge_moves _ s _ _ _ (setLines_moves _ s _) (setLines_moves _ s _) (energizedFall_moves _)
  | estopNFalling =>
    cases execNext h
    exact edge_moves _ s _ _ _ (setLines_moves _ s _) (setLines_moves _ s _) (estopFall_moves _)
  | brakeSetRising =>
    cases execNext h
    exact edge_moves _ s _ _ _ (setLines_moves _ s _) (setLines_moves _ s _) (brakeRise_moves _)
  | provenRising =>
    cases execNext h
    exact edge_moves _ s _ _ _ (setLines_moves _ s _) (setLines_moves _ s _) (provenRise_moves _)
  | brakeSetFalling =>
    cases execNext h
    exact edge_moves _ s _ _ _ (setLines_moves _ s _) (setLines_moves _ s _) (Moves.refl _)
  | brakeWaitExpiry =>
    cases execNext h
    exact whenDue_moves _ s _ _ fun _ => lockout_moves _ s _
  | graceExpiry =>
    cases execNext h
    exact whenDue_moves _ s _ _ fun hd => graceExpiry_moves _ s hd
  | provingDeadlineExpiry =>
    cases execNext h
    exact whenDue_moves _ s _ _ fun _ => provingTimeout_moves _ s
  | setFrameSent =>
    cases execNext h
    exact whenDue_moves _ s _ _ fun _ => frameEnd_moves _ s
  | adoptionFrame g =>
    cases execNext h
    exact whileRunning_moves _ s _ ((setReceiver_moves _ s none).next (adoption_moves _ _ g))
  | adoptionWord w i =>
    cases execNext h
    exact whileRunning_moves _ s _ (adoptionWord_moves _ s _ i)
  | adoptionDeadlineExpiry =>
    cases execNext h
    exact whenDue_moves _ s _ _ fun _ => lockout_moves _ s _
  | minimumTimerExpiry =>
    cases execNext h
    exact whenDue_moves _ s _ _ fun _ => minExpiry_moves _ s
  | verificationDeadlineExpiry =>
    cases execNext h
    exact whenDue_moves _ s _ _ fun _ => verExpiry_moves _ s
  | cleanRunSecond =>
    cases execNext h
    exact whenDue_moves _ s _ _ fun _ => cleanSecond_moves _ s
  | cleanRunEnd =>
    cases execNext h
    exact whenDue_moves _ s _ _ fun _ => cleanEnd_moves _ s
  | runningTimeSecond =>
    cases execNext h
    exact whenDue_moves _ s _ _ fun _ => runningSecond_moves _ s
  | probationComplete p =>
    cases execNext h
    exact whenDue_moves _ s _ _ fun hd => probation_moves _ s p hd
  | uplinkWord ch w =>
    cases execNext h
    exact whileRunning_moves _ s _ (uplinkWord_moves _ s ch w)
  | _ => exact performed_moves _ s t rfl h

theorem setPending_moves (a : Grants) (s : State) (q : List Instr) : Moves a s (s.setPending q) :=
  Moves.asideOf a _ _ rfl rfl rfl rfl rfl rfl

theorem tick_moves (a : Grants) (s : State) : Moves a s s.tick := by
  unfold State.tick
  have h : Moves a s (((s.setTime (s.time + 1)).setLines
      (if (s.time + 1).getLsbD 0 then s.lines else s.lines.sampled)).setAccrual
        (accrue s.runningTime s.accrual)) := Moves.asideOf a s _ rfl rfl rfl rfl rfl rfl
  refine (h.next (engine_moves ?_)).next (setPort_moves a _ _)
  exact engine_kept rfl rfl

theorem queueOne_moves (a : Grants) (s : State) (c : Instr) (l : List Instr) :
    Moves a s (s.queueOne c l) := by
  unfold State.queueOne
  split <;> exact Moves.asideOf a s _ rfl rfl rfl rfl rfl rfl

theorem idle_moves (a : Grants) (s : State) : Moves a s s.idle := by
  unfold State.idle
  split
  · split
    · exact tick_moves a s
    · exact queueOne_moves a s _ _
  · exact Moves.refl a s
  · exact Moves.asideOf a s _ rfl rfl rfl rfl rfl rfl
  · exact Moves.asideOf a s _ rfl rfl rfl rfl rfl rfl
  · exact Moves.refl a s

/-- What a step is granted: what the command at the front of the queue is granted. -/
def State.grants (s : State) : Grants :=
  match s.pending with
  | [] => Grants.none
  | c :: _ => Instr.grants c

/-- Every step is a sequence of elementary changes. -/
theorem step_moves (s t : State) (h : step s = .next t) : Moves s.grants s t := by
  unfold step at h
  unfold State.grants
  split at h
  · rename_i hp
    try rw [hp]
    exact execNext h ▸ idle_moves _ s
  · rename_i c rest hp
    try rw [hp]
    exact (setPending_moves _ s rest).next (exec_moves c _ t h)

end Sys2Proof.Machine
end

