-- ==== Sys2Proof/Laws/Frames.lean ====
section
/-! SUPPORT. Which parts of the state each shared operation can change, one lemma for each: an equation
for a part that is not listed is the frame applied to that part. -/

namespace Sys2Proof.Machine

theorem State.ChangesOnly.refl (s : State) (l : List Part) : s.ChangesOnly s l := by
  intro x _
  cases x <;> rfl

theorem State.SamePart.trans {s t u : State} {x : Part} (h1 : s.SamePart t x) (h2 : t.SamePart u x) :
    s.SamePart u x := by
  cases x <;> exact Eq.trans h2 h1

theorem State.ChangesOnly.trans {s t u : State} {l : List Part} (h1 : s.ChangesOnly t l)
    (h2 : t.ChangesOnly u l) : s.ChangesOnly u l :=
  fun x hx => (h1 x hx).trans (h2 x hx)

/-- A frame may list more parts. -/
theorem State.ChangesOnly.more {s t : State} {l l' : List Part} (h : s.ChangesOnly t l)
    (hl : ∀ x ∈ l, x ∈ l') : s.ChangesOnly t l' :=
  fun x hx => h x fun hm => hx (hl x hm)

theorem State.ChangesOnly.foldl {α : Type} {l : List Part} (f : State → α → State)
    (hf : ∀ (s : State) (x : α), s.ChangesOnly (f s x) l) (xs : List α) (s : State) :
    s.ChangesOnly (xs.foldl f s) l := by
  induction xs generalizing s with
  | nil => exact .refl s l
  | cons x xs ih => exact (hf s x).trans (ih (f s x))

/-! ## Single updates -/

theorem setRoster_frame (s : State) (v : Vector Record 30) : s.ChangesOnly (s.setRoster v) [.roster] := by
  intro x hx
  cases x <;> first | rfl | exact absurd (by decide) hx

theorem setLinks_frame (s : State) (v : Vector Link 32) : s.ChangesOnly (s.setLinks v) [.links] := by
  intro x hx
  cases x <;> first | rfl | exact absurd (by decide) hx

theorem setIntake_frame (s : State) (i : Intake) : s.ChangesOnly (s.setIntake i) [.intake] := by
  intro x hx
  cases x <;> first | rfl | exact absurd (by decide) hx

theorem setMatrix_frame (s : State) (m : Matrix) : s.ChangesOnly (s.setMatrix m) [.matrix] := by
  intro x hx
  cases x <;> first | rfl | exact absurd (by decide) hx

theorem setEngine_frame (s : State) (e : Engine) : s.ChangesOnly (s.setEngine e) [.engine] := by
  intro x hx
  cases x <;> first | rfl | exact absurd (by decide) hx

theorem setPublisher_frame (s : State) (p : Publisher) : s.ChangesOnly (s.setPublisher p) [.publisher] := by
  intro x hx
  cases x <;> first | rfl | exact absurd (by decide) hx

theorem setPort_frame (s : State) (p : Port) : s.ChangesOnly (s.setPort p) [.port] := by
  intro x hx
  cases x <;> first | rfl | exact absurd (by decide) hx

theorem setResult_frame (s : State) (r : Option Result) : s.ChangesOnly (s.setResult r) [.result] := by
  intro x hx
  cases x <;> first | rfl | exact absurd (by decide) hx

theorem setLines_frame (s : State) (l : Lines) : s.ChangesOnly (s.setLines l) [.lines] := by
  intro x hx
  cases x <;> first | rfl | exact absurd (by decide) hx

theorem setSense_frame (s : State) (l : Sense) : s.ChangesOnly (s.setSense l) [.sense] := by
  intro x hx
  cases x <;> first | rfl | exact absurd (by decide) hx

theorem setFlag_frame (s : State) (f : Flag) : s.ChangesOnly (s.setFlag f) [.port] := setPort_frame s _

theorem setRecord_frame (s : State) (p : Pos) (r : Record) : s.ChangesOnly (s.setRecord p r) [.roster] :=
  setRoster_frame s _

theorem mapRecords_frame (s : State) (f : Pos → Record → Record) :
    s.ChangesOnly (s.mapRecords f) [.roster] := setRoster_frame s _

theorem setOrders_frame (s : State) (l : List Entry) : s.ChangesOnly (s.setOrders l) [.matrix] :=
  setMatrix_frame s _

theorem setUnit_frame (s : State) (u : FiringUnit) : s.ChangesOnly (s.setUnit u) [.matrix] :=
  setMatrix_frame s _

theorem listClose_frame (s : State) (p : Pos) (t : Stamp) (m h : Bool) :
    s.ChangesOnly (s.listClose p t m h) [.matrix] := setMatrix_frame s _

theorem setRx_frame (s : State) (ch : Chan) (r : Receiver) : s.ChangesOnly (s.setRx ch r) [.links] :=
  setLinks_frame s _

theorem setTx_frame (s : State) (ch : Chan) (t : Transmitter) : s.ChangesOnly (s.setTx ch t) [.links] :=
  setLinks_frame s _

theorem clearRun_frame (s : State) (p : Pos) : s.ChangesOnly (s.clearRun p) [.roster] :=
  setRecord_frame s p _

theorem closeCompletion_frame (s : State) (p : Pos) : s.ChangesOnly (s.closeCompletion p) [.roster] :=
  setRecord_frame s p _

theorem commitRoster_frame (s : State) (l : List Pos) : s.ChangesOnly (s.commitRoster l) [.roster] :=
  mapRecords_frame s _

/-! ## Taking a fault -/

/-- The parts that taking a fault, without its notice, can change. -/
def takingParts : List Part := [.roster, .matrix, .port, .intake]

theorem applyFault_frame (s : State) (p : Pos) (c : FaultCause) (t : Stamp) :
    s.ChangesOnly (s.applyFault p c t) takingParts := by
  have hl : ∀ (u : State) (m h : Bool), u.ChangesOnly
      (if (u.record p).contact = .closed then u.closeCompletion p else u.listClose p t m h) takingParts := by
    intro u m h
    split
    · exact (closeCompletion_frame u p).more (by decide)
    · exact (listClose_frame u p t m h).more (by decide)
  have hr : ∀ (u : State) (r : Record), u.ChangesOnly ((u.setRecord p r).setFlag .faultTaken) takingParts :=
    fun u r => ((setRecord_frame u p r).more (by decide)).trans ((setFlag_frame _ _).more (by decide))
  unfold State.applyFault
  dsimp only
  cases s.provisionalCode c with
  | none => exact (hr s _).trans (hl _ _ _)
  | some code =>
    exact ((setIntake_frame s _).more (by decide)).trans ((hr (s.openWindow p code t) _).trans (hl _ _ _))

theorem applyContactOpen_frame (s : State) (p : Pos) (t : Stamp) :
    s.ChangesOnly (s.applyContactOpen p t) takingParts := by
  have h : s.ChangesOnly ((s.setRecord p ((s.record p).contactOpenTaken t)).setFlag .faultTaken)
      takingParts :=
    ((setRecord_frame s p _).more (by decide)).trans ((setFlag_frame _ _).more (by decide))
  unfold State.applyContactOpen
  dsimp only
  split
  · exact h.trans ((listClose_frame _ _ _ _ _).more (by decide))
  · exact h

theorem openWithdrawn_frame (s : State) (p : Pos) : s.ChangesOnly (s.openWithdrawn p) takingParts := by
  have h : s.ChangesOnly (s.setRecord p (s.record p).openEnded) takingParts :=
    (setRecord_frame s p _).more (by decide)
  unfold State.openWithdrawn
  dsimp only
  split
  · exact h.trans (applyContactOpen_frame _ _ _)
  · exact h

theorem withdrawOpens_frame (s : State) : s.ChangesOnly s.withdrawOpens takingParts :=
  ((setOrders_frame s _).more (by decide)).trans
    (.foldl _ (fun t (e : Entry) => openWithdrawn_frame t e.pos) _ _)

theorem restoreMember_frame (s : State) (p : Pos) : s.ChangesOnly (s.restoreMember p) takingParts :=
  ((setOrders_frame s _).more (by decide)).trans ((setRecord_frame _ p _).more (by decide))

theorem closeRestored_frame (s : State) (p : Pos) : s.ChangesOnly (s.closeRestored p) takingParts := by
  unfold State.closeRestored
  split
  · exact applyFault_frame s p _ _
  · exact .refl s _

theorem verifyFail_frame (s : State) (p : Pos) : s.ChangesOnly (s.verifyFail p) takingParts := by
  unfold State.verifyFail
  split
  · exact applyFault_frame s p _ _
  · exact .refl s _

/-! ## The engine's state change -/

/-- What a state change makes of the engine, and of the publisher (R92, R93). -/
@[simp] theorem changeState_engine (s : State) (new : EngineState) :
    (s.changeState new).engine = s.engine.enter new := by
  unfold State.changeState
  dsimp only
  split
  · exact withdrawOpens_frame _ .engine (by decide)
  · rfl

@[simp] theorem changeState_publisher (s : State) (new : EngineState) :
    (s.changeState new).publisher = s.publisher.stopped := by
  unfold State.changeState
  dsimp only
  split
  · exact withdrawOpens_frame _ .publisher (by decide)
  · rfl

/-- The parts that a state change can change. -/
def changingParts : List Part := [.roster, .matrix, .port, .intake, .engine, .publisher]

theorem changeState_frame (s : State) (new : EngineState) :
    s.ChangesOnly (s.changeState new) changingParts := by
  have h : s.ChangesOnly (((s.setEngine (s.engine.enter new)).setPublisher s.publisher.stopped).setFlag
      .stateChange) changingParts :=
    (((setEngine_frame s _).more (by decide)).trans ((setPublisher_frame _ _).more (by decide))).trans
      ((setFlag_frame _ _).more (by decide))
  unfold State.changeState
  dsimp only
  split
  · exact h.trans ((withdrawOpens_frame _).more (by decide))
  · exact h

/-- Outside DORMANT a state change touches the engine, the publisher's timers and STATE_CHANGE alone. -/
theorem changeState_awake (s : State) (new : EngineState) (h : s.engine.state ≠ .dormant) :
    s.changeState new =
      ((s.setEngine (s.engine.enter new)).setPublisher s.publisher.stopped).setFlag .stateChange := by
  unfold State.changeState
  dsimp only
  rw [if_neg h]

theorem endPass_frame (s : State) (o : PassOutcome) : s.ChangesOnly (s.endPass o) [.engine] := by
  unfold State.endPass
  split
  · exact setEngine_frame s _
  · exact .refl s _

/-- What the end of the current pass makes of the engine (R107). -/
theorem endPass_engine (s : State) (o : PassOutcome) :
    (s.endPass o).engine =
      if s.engine.passCurrent then
        { s.engine with pass := s.engine.pass.map (fun p => { p with outcome := some o }), passCurrent := false }
      else s.engine := by
  unfold State.endPass
  split <;> rfl

theorem lockout_frame (s : State) (c : LockoutCause) : s.ChangesOnly (s.lockout c) changingParts := by
  unfold State.lockout
  split
  · exact .refl s _
  · have h1 := (endPass_frame s .endedByLockout).more (l' := changingParts) (by decide)
    have h2 := h1.trans (changeState_frame (s.endPass .endedByLockout) .lockout)
    generalize (s.endPass .endedByLockout).changeState .lockout = u at h2 ⊢
    show s.ChangesOnly ((u.setEngine { u.engine with cause := some c }).setFlag .lockedOut) changingParts
    have h3 := (setEngine_frame u { u.engine with cause := some c }).more (l' := changingParts) (by decide)
    generalize u.setEngine { u.engine with cause := some c } = w at h3 ⊢
    exact (h2.trans h3).trans ((setFlag_frame w .lockedOut).more (l' := changingParts) (by decide))

/-- What a lockout request makes of the engine outside LOCKOUT (R113). -/
theorem lockout_engine (s : State) (c : LockoutCause) (h : s.engine.state ≠ .lockout) :
    (s.lockout c).engine =
      { ((s.endPass .endedByLockout).engine.enter .lockout) with cause := some c } := by
  unfold State.lockout
  rw [if_neg h]
  dsimp only
  show ({ ((s.endPass .endedByLockout).changeState .lockout).engine with cause := some c } : Engine) = _
  rw [changeState_engine]

theorem lockout_publisher (s : State) (c : LockoutCause) (h : s.engine.state ≠ .lockout) :
    (s.lockout c).publisher = s.publisher.stopped := by
  unfold State.lockout
  rw [if_neg h]
  dsimp only
  show ((s.endPass .endedByLockout).changeState .lockout).publisher = _
  rw [changeState_publisher, endPass_frame s _ .publisher (by decide)]

/-- A lockout request in LOCKOUT changes nothing (R113). -/
theorem lockout_locked (s : State) (c : LockoutCause) (h : s.engine.state = .lockout) : s.lockout c = s := by
  unfold State.lockout
  rw [if_pos h]

/-! ## The rebalance, the notice and what follows them -/

/-- The parts that a fault notice, the exit test and attempt accounting can change. -/
def noticeParts : List Part := [.roster, .matrix, .port, .intake, .engine, .publisher, .result]

theorem openPass_frame (s : State) (k : PassKind) : s.ChangesOnly (s.openPass k) [.engine] :=
  setEngine_frame s _

theorem publishEntry_frame (s : State) (r : Result) : s.ChangesOnly (s.publishEntry r) [.publisher] :=
  setPublisher_frame s _

theorem commit_frame (s : State) (r : Result) (l : List Pos) : s.ChangesOnly (s.commit r l) noticeParts := by
  unfold State.commit
  have h1 := (commitRoster_frame s l).more (l' := noticeParts) (by decide)
  generalize s.commitRoster l = u at h1 ⊢
  have h2 := h1.trans ((setResult_frame u (some r)).more (l' := noticeParts) (by decide))
  generalize u.setResult (some r) = v at h2 ⊢
  exact (h2.trans ((changeState_frame v .publishing).more (by decide))).trans
    ((publishEntry_frame _ r).more (by decide))

theorem runRebalance_frame (s : State) (k : PassKind) : s.ChangesOnly (s.runRebalance k) noticeParts := by
  unfold State.runRebalance
  dsimp only
  have h := (openPass_frame s k).more (l' := noticeParts) (by decide)
  generalize s.openPass k = u at h ⊢
  cases rebalance s.roster s.params s.tables k (s.passAttempt k)
      (s.engine.sampledDir.getD Config.unsampledDir) with
  | commit r parked =>
    dsimp only
    split
    · exact (h.trans ((setFlag_frame u _).more (by decide))).trans (commit_frame _ r parked)
    · exact h.trans (commit_frame u r parked)
  | lockout c miss =>
    dsimp only
    split
    · exact (h.trans ((setFlag_frame u _).more (by decide))).trans ((lockout_frame _ c).more (by decide))
    · exact h.trans ((lockout_frame u c).more (by decide))

theorem exitTest_frame (s : State) : s.ChangesOnly s.exitTest noticeParts := by
  unfold State.exitTest
  split
  · split
    · exact runRebalance_frame s _
    · exact .refl s _
  · exact .refl s _

theorem enterBypassing_frame (s : State) (k : PassKind) : s.ChangesOnly (s.enterBypassing k) noticeParts := by
  unfold State.enterBypassing
  dsimp only
  have h := (changeState_frame s .bypassing).more (l' := noticeParts) (by decide)
  generalize s.changeState .bypassing = u at h ⊢
  exact (h.trans ((setEngine_frame u { u.engine with passToCome := some k }).more (by decide))).trans
    (exitTest_frame _)

theorem enterHalted_frame (s : State) : s.ChangesOnly s.enterHalted noticeParts := by
  unfold State.enterHalted
  dsimp only
  have h := (changeState_frame s .halted).more (l' := noticeParts) (by decide)
  generalize s.changeState .halted = u at h ⊢
  split
  · exact h.trans (enterBypassing_frame u _)
  · exact h.trans ((setEngine_frame u _).more (by decide))

theorem accounting_frame (s : State) : s.ChangesOnly s.accounting noticeParts := by
  unfold State.accounting
  dsimp only
  have h : s.ChangesOnly s.sampleLines noticeParts := (setEngine_frame s _).more (by decide)
  generalize s.sampleLines = u at h ⊢
  split
  · exact (h.trans ((setEngine_frame u { u.engine with attempts := s.engine.attempts + 1 }).more
      (by decide))).trans (enterHalted_frame _)
  · exact h.trans ((lockout_frame u _).more (by decide))

theorem faultNotice_frame (s : State) : s.ChangesOnly s.faultNotice noticeParts := by
  have hp : s.ChangesOnly (s.endPass .endedByFault).accounting noticeParts :=
    ((endPass_frame s _).more (by decide)).trans (accounting_frame _)
  unfold State.faultNotice
  split
  · exact hp
  · exact hp
  · exact hp
  · exact hp
  · exact exitTest_frame s
  all_goals exact .refl s _

end Sys2Proof.Machine
end

