-- ==== Sys2Proof/Laws/Events.lean ====
section
/-! SUPPORT. What each shared operation can do, once: flags raised, LOCKOUT entered, the rebalance run, the
exit tested, attempt accounting made, a fault taken, a frame accepted. Later proofs cite these and do not
unfold the operations. -/

namespace Sys2Proof.Machine

/-! ## Flags -/

theorem Flag.bit_number (f g : Flag) : f.bit.getLsbD g.number = [f].contains g := by
  cases f <;> cases g <;> decide

/-- Setting one flag raises it and nothing else (R180). -/
theorem setFlag_raises (s : State) (f : Flag) : s.Raises (s.setFlag f) [f] := by
  refine ⟨fun g => ?_, rfl⟩
  show (s.port.flags ||| f.bit).getLsbD g.number = _
  rw [BitVec.getLsbD_or, Flag.bit_number]
  rfl

theorem State.Raises.trans {s t u : State} {l l' : List Flag} (h : s.Raises t l) (h' : t.Raises u l') :
    s.Raises u (l ++ l') := by
  refine ⟨fun f => ?_, ?_⟩
  · rw [h'.1 f, h.1 f, List.contains_append, Bool.or_assoc]
  · rw [h'.2, h.2]

/-- Two states with one port raise nothing. -/
theorem State.Raises.none {s t : State} (h : t.port = s.port) : s.Raises t [] := by
  refine ⟨fun f => ?_, by rw [h]⟩
  show t.port.flags.getLsbD f.number = _
  rw [h]
  exact (Bool.or_false _).symm

/-- What is raised is a set. -/
theorem State.Raises.same {s t : State} {l l' : List Flag} (h : s.Raises t l)
    (hl : ∀ f, l.contains f = l'.contains f) : s.Raises t l' :=
  ⟨fun f => by rw [h.1 f, hl f], h.2⟩

theorem State.Raises.before {s t u : State} {l : List Flag} (h : t.port = s.port) (h' : t.Raises u l) :
    s.Raises u l := (State.Raises.none h).trans h'

theorem State.Raises.after {s t u : State} {l : List Flag} (h : s.Raises t l) (h' : u.port = t.port) :
    s.Raises u l := by
  have := h.trans (State.Raises.none h')
  rwa [List.append_nil] at this

/-! ## State changes and LOCKOUT -/

theorem changeState_raises (s : State) (new : EngineState) (h : s.engine.state ≠ .dormant) :
    s.Raises (s.changeState new) [.stateChange] := by
  rw [changeState_awake s new h]
  exact State.Raises.before rfl (setFlag_raises _ _)

/-- Outside DORMANT a state change touches three parts. -/
theorem changeState_only (s : State) (new : EngineState) (h : s.engine.state ≠ .dormant) :
    s.ChangesOnly (s.changeState new) [.engine, .publisher, .port] := by
  rw [changeState_awake s new h]
  exact (((setEngine_frame s _).more (by decide)).trans ((setPublisher_frame _ _).more (by decide))).trans
    ((setFlag_frame _ _).more (by decide))

@[simp] theorem endPass_state (s : State) (o : PassOutcome) :
    (s.endPass o).engine.state = s.engine.state := by
  rw [endPass_engine]
  split <;> rfl

/-- The end of the current pass, as one function of the engine (R107). -/
theorem endPass_passEnded (s : State) (o : PassOutcome) : (s.endPass o).engine = s.engine.passEnded o := by
  rw [endPass_engine]
  unfold Engine.passEnded
  cases h : s.engine.passCurrent with
  | true => rfl
  | false =>
    rw [if_neg (by decide), if_neg (by decide), ← h]

/-- A lockout request outside DORMANT and LOCKOUT (R113). -/
theorem lockout_locksOut (s : State) (c : LockoutCause) (h : s.engine.state ≠ .lockout)
    (hd : s.engine.state ≠ .dormant) : s.LocksOut (s.lockout c) c := by
  have hd' : (s.endPass .endedByLockout).engine.state ≠ .dormant := by rwa [endPass_state]
  refine ⟨?_, lockout_publisher s c h, ?_, ?_⟩
  · rw [lockout_engine s c h, endPass_passEnded]
    rfl
  · unfold State.lockout
    rw [if_neg h]
    dsimp only
    have h1 := State.Raises.before (endPass_frame s .endedByLockout .port (by decide))
      (changeState_raises _ .lockout hd')
    generalize (s.endPass .endedByLockout).changeState .lockout = u at h1 ⊢
    show s.Raises ((u.setEngine { u.engine with cause := some c }).setFlag .lockedOut) _
    exact h1.trans (State.Raises.before rfl (setFlag_raises _ _))
  · unfold State.lockout
    rw [if_neg h]
    dsimp only
    have h1 := ((endPass_frame s .endedByLockout).more (by decide)).trans (changeState_only _ .lockout hd')
    generalize (s.endPass .endedByLockout).changeState .lockout = u at h1 ⊢
    show s.ChangesOnly ((u.setEngine { u.engine with cause := some c }).setFlag .lockedOut) _
    exact (h1.trans ((setEngine_frame u { u.engine with cause := some c }).more (by decide))).trans
      ((setFlag_frame _ _).more (by decide))

/-! ## The rebalance, the exit test and attempt accounting -/

/-- The exit condition is that nothing is outstanding (R105). -/
theorem exitHolds_iff (s : State) : s.exitHolds = true ↔ ¬s.Outstanding := by
  unfold State.exitHolds State.Outstanding Record.holdsEngine
  simp only [Bool.and_eq_true, List.all_eq_true, Bool.not_eq_true', Bool.or_eq_false_iff,
    Bool.and_eq_false_imp, beq_iff_eq, beq_eq_false_iff_ne, List.isEmpty_iff, not_or, not_exists, not_and,
    Bool.not_eq_false, ne_eq, not_not]
  constructor
  · rintro ⟨h1, h2⟩
    exact ⟨fun p => ⟨fun a => by simpa using (h1 p (List.mem_finRange p)).1 a,
      (h1 p (List.mem_finRange p)).2⟩, h2⟩
  · rintro ⟨h1, h2⟩
    exact ⟨fun p _ => ⟨fun a => by simpa using (h1 p).1 a, (h1 p).2⟩, h2⟩

/-- A commit, for an engine outside DORMANT (R134, R158). -/
theorem commit_spec (s : State) (r : Result) (parked : List Pos) (h : s.engine.state ≠ .dormant) :
    (s.commit r parked).engine = s.engine.enter .publishing ∧ (s.commit r parked).result = some r ∧
    (s.commit r parked).roster = (s.commitRoster parked).roster ∧
    (∃ frame, frame = setFrame (s.publisher.adopted + 1) r ((s.commit r parked).pairs 0)
        ((s.commit r parked).pairs 1) ((s.commit r parked).pairs 2) ∧
      (s.commit r parked).publisher = { s.publisher.stopped with
        published := s.publisher.adopted + 1
        sending := if s.publisher.sending = none then some { frame := frame, since := s.time }
          else s.publisher.sending
        queued := if s.publisher.sending = none then s.publisher.queued else some frame
        frameSent := some false
        adoptDeadline := some s.time }) ∧
    s.Raises (s.commit r parked) [.stateChange] ∧
    s.ChangesOnly (s.commit r parked) [.engine, .result, .roster, .publisher, .port] := by
  unfold State.commit
  obtain ⟨w, hw⟩ : ∃ w, w = s.commitRoster parked := ⟨_, rfl⟩
  have hf := commitRoster_frame s parked
  rw [← hw] at hf ⊢
  have hs : w.engine = s.engine := hf .engine (by decide)
  have hpu : w.publisher = s.publisher := hf .publisher (by decide)
  have hpo : w.port = s.port := hf .port (by decide)
  have hwd : (w.setResult (some r)).engine.state ≠ .dormant := by
    rw [State.setResult_engine, hs]
    exact h
  have hr : s.Raises ((w.setResult (some r)).changeState .publishing) [.stateChange] :=
    State.Raises.before (t := w.setResult (some r)) hpo (changeState_raises _ _ hwd)
  have hc : s.ChangesOnly ((w.setResult (some r)).changeState .publishing)
      [.engine, .result, .roster, .publisher, .port] :=
    ((hf.more (by decide)).trans ((setResult_frame w (some r)).more (by decide))).trans
      ((changeState_only _ .publishing hwd).more (by decide))
  have he : ((w.setResult (some r)).changeState .publishing).engine = s.engine.enter .publishing := by
    rw [changeState_engine, State.setResult_engine, hs]
  have hp : ((w.setResult (some r)).changeState .publishing).publisher = s.publisher.stopped := by
    rw [changeState_publisher, State.setResult_publisher, hpu]
  have hro : ((w.setResult (some r)).changeState .publishing).roster = w.roster :=
    changeState_only _ .publishing hwd .roster (by decide)
  have hre : ((w.setResult (some r)).changeState .publishing).result = some r :=
    changeState_only _ .publishing hwd .result (by decide)
  generalize (w.setResult (some r)).changeState .publishing = u at hr hc he hp hro hre ⊢
  have ht : u.time = s.time := hc .time (by decide)
  have ha : u.publisher.adopted = s.publisher.adopted := by rw [hp]; rfl
  refine ⟨he, hre, hro, ⟨setFrame (s.publisher.adopted + 1) r (u.pairs 0) (u.pairs 1) (u.pairs 2), rfl, ?_⟩,
    hr.after rfl, hc.trans ((setPublisher_frame u _).more (by decide))⟩
  unfold State.publishEntry
  dsimp only
  rw [State.setPublisher_publisher, ha, ht, hp]
  generalize setFrame (s.publisher.adopted + 1) r (u.pairs 0) (u.pairs 1) (u.pairs 2) = fr
  unfold Publisher.transmit
  cases hs : s.publisher.sending with
  | none => simp [Publisher.stopped, hs]
  | some x => simp [Publisher.stopped, hs]

/-- The scale of a COLD pass reads no direction (R129). -/
theorem rebalance_cold (roster : Vector Record 30) (ps : Params) (t : Tables) (a : Nat) (x y : Bool) :
    rebalance roster ps t .cold a x = rebalance roster ps t .cold a y := rfl

/-- The rebalance as the engine runs it (R106). -/
theorem runRebalance_rebalances (s : State) (kind : PassKind) (hd : s.engine.state ≠ .dormant)
    (hl : s.engine.state ≠ .lockout) : s.Rebalances (s.runRebalance kind) kind (s.passAttempt kind) := by
  intro lower hlow
  have hb : rebalance s.roster s.params s.tables kind (s.passAttempt kind)
      (s.engine.sampledDir.getD Config.unsampledDir) =
      rebalance s.roster s.params s.tables kind (s.passAttempt kind) lower := by
    rcases hlow with h | h
    · subst h
      rfl
    · rw [h]
      rfl
  unfold State.runRebalance
  dsimp only
  rw [hb]
  cases hc : rebalance s.roster s.params s.tables kind (s.passAttempt kind) lower with
  | lockout c miss =>
    dsimp only
    obtain ⟨u, hu, hr, hf, hue⟩ : ∃ u : State,
        u = (if miss = true then (s.openPass kind).setFlag .tableMiss else s.openPass kind) ∧
        s.Raises u (if miss then [.tableMiss] else []) ∧ s.ChangesOnly u [.engine, .publisher, .port] ∧
        u.engine = (s.openPass kind).engine := by
      refine ⟨_, rfl, ?_, ?_, ?_⟩
      · cases miss
        · exact State.Raises.none rfl
        · exact State.Raises.before rfl (setFlag_raises _ _)
      · cases miss
        · exact (setEngine_frame s _).more (by decide)
        · exact ((setEngine_frame s _).more (by decide)).trans ((setFlag_frame _ _).more (by decide))
      · cases miss <;> rfl
    rw [← hu]
    have hd' : u.engine.state ≠ .dormant := by rw [hue]; exact hd
    have hl' : u.engine.state ≠ .lockout := by rw [hue]; exact hl
    obtain ⟨h1, h2, h3, h4⟩ := lockout_locksOut u c hl' hd'
    have hup : u.publisher = s.publisher := by rw [hu]; cases miss <;> rfl
    exact ⟨by rw [h1, hue]; rfl, by rw [h2, hup], hr.trans h3, hf.trans h4⟩
  | commit r parked =>
    dsimp only
    obtain ⟨u, hu, hr, hf, hue⟩ : ∃ u : State,
        u = (if r.miss = true then (s.openPass kind).setFlag .tableMiss else s.openPass kind) ∧
        s.Raises u (if r.miss then [.tableMiss] else []) ∧
        s.ChangesOnly u [.engine, .result, .roster, .publisher, .port] ∧
        u.engine = (s.openPass kind).engine := by
      refine ⟨_, rfl, ?_, ?_, ?_⟩
      · cases r.miss
        · exact State.Raises.none rfl
        · exact State.Raises.before rfl (setFlag_raises _ _)
      · cases r.miss
        · exact (setEngine_frame s _).more (by decide)
        · exact ((setEngine_frame s _).more (by decide)).trans ((setFlag_frame _ _).more (by decide))
      · cases r.miss <;> rfl
    rw [← hu]
    have hup : u.publisher = s.publisher := by rw [hu]; cases r.miss <;> rfl
    have hur : u.roster = s.roster := by rw [hu]; cases r.miss <;> rfl
    have hut : u.time = s.time := by rw [hu]; cases r.miss <;> rfl
    obtain ⟨h1, h2, h3, ⟨fr, h4, h5⟩, h6, h7⟩ := commit_spec u r parked (by rw [hue]; exact hd)
    refine ⟨by rw [h1, hue]; rfl, h2, ?_, ⟨fr, by rw [h4, hup], by rw [h5, hup, hut]⟩, hr.trans h6,
      hf.trans h7⟩
    rw [h3]
    unfold State.commitRoster State.mapRecords State.record
    rw [hur]
    rfl

/-- A test of the exit condition (R105). -/
theorem exitTest_tests (s : State) : s.ExitTests s.exitTest := by
  constructor
  · intro h
    unfold State.exitTest
    rw [if_neg]
    rintro ⟨h1, h2⟩
    rcases h with h | h
    · exact h h1
    · exact (exitHolds_iff s).mp h2 h
  · intro h1 h2
    have hx : s.exitTest = match s.engine.passToCome with
        | some kind => s.runRebalance kind
        | none => s := by
      unfold State.exitTest
      exact if_pos ⟨h1, (exitHolds_iff s).mpr h2⟩
    constructor
    · intro hk
      rw [hx, hk]
      exact runRebalance_rebalances s .cold (by rw [h1]; decide) (by rw [h1]; decide)
    · intro hk
      rw [hx, hk]
      exact runRebalance_rebalances s .restart (by rw [h1]; decide) (by rw [h1]; decide)

/-- Entry into BYPASSING from a state other than DORMANT (R105). -/
theorem enterBypassing_enters (s : State) (kind : PassKind) (hd : s.engine.state ≠ .dormant) :
    ∃ u : State, u.engine = { s.engine.enter .bypassing with passToCome := some kind } ∧
      u.publisher = s.publisher.stopped ∧ s.Raises u [.stateChange] ∧
      s.ChangesOnly u [.engine, .publisher, .port] ∧ u.ExitTests (s.enterBypassing kind) := by
  unfold State.enterBypassing
  dsimp only
  have h1 := changeState_engine s .bypassing
  have h2 := changeState_publisher s .bypassing
  have h3 := changeState_raises s .bypassing hd
  have h4 := changeState_only s .bypassing hd
  generalize s.changeState .bypassing = v at h1 h2 h3 h4 ⊢
  refine ⟨v.setEngine { v.engine with passToCome := some kind }, ?_, h2, h3.after rfl,
    h4.trans ((setEngine_frame v _).more (by decide)), exitTest_tests _⟩
  rw [State.setEngine_engine, h1]

/-- Records and provisional faults that are the same leave the same outstanding. -/
theorem State.outstanding_congr {s t : State} (hr : t.roster = s.roster) (hi : t.intake = s.intake) :
    t.Outstanding ↔ s.Outstanding := by
  unfold State.Outstanding
  rw [hi]
  simp only [State.record_congr hr]

/-- A rebalance of two states that agree in all that it reads and changes is one. -/
theorem State.Rebalances.before {s u t : State} {kind : PassKind} {n : Nat} (h : u.Rebalances t kind n)
    (he : u.engine = { s.engine.enter .bypassing with passToCome := u.engine.passToCome })
    (hp : u.publisher = s.publisher.stopped) (hr : s.Raises u [.stateChange])
    (hf : s.ChangesOnly u [.engine, .publisher, .port]) : s.Rebalances t kind n := by
  intro lower hlow
  have hlow' : kind = .cold ∨ u.engine.sampledDir = some lower := by
    rcases hlow with a | a
    · exact .inl a
    · rw [he]
      exact .inr a
  have hx := h lower hlow'
  have h1 : u.roster = s.roster := hf .roster (by decide)
  have h2 : u.params = s.params := hf .params (by decide)
  have h3 : u.tables = s.tables := hf .tables (by decide)
  have h4 : u.time = s.time := hf .time (by decide)
  dsimp only at hx ⊢
  rw [h1, h2, h3] at hx
  cases hc : rebalance s.roster s.params s.tables kind n lower with
  | lockout c miss =>
    rw [hc] at hx
    obtain ⟨x1, x2, x3, x4⟩ := hx
    refine ⟨?_, by rw [x2, hp]; rfl, (hr.trans x3).same ?_, hf.trans x4⟩
    · rw [x1, he]
      rfl
    · intro f
      cases miss <;> cases f <;> decide
  | commit r parked =>
    rw [hc] at hx
    obtain ⟨x1, x2, x3, ⟨fr, x4, x5⟩, x6, x7⟩ := hx
    refine ⟨?_, x2, ?_, ⟨fr, by rw [x4, hp]; rfl, by rw [x5, hp, h4]; rfl⟩, (hr.trans x6).same ?_,
      (hf.more (by decide)).trans x7⟩
    · rw [x1, he]
      rfl
    · rw [x3]
      unfold State.commitRoster State.mapRecords State.record
      rw [h1]
      rfl
    · intro f
      cases r.miss <;> cases f <;> decide

/-- Entry into HALTED from a state other than DORMANT: the brake wait, or BYPASSING at once (R103). -/
theorem enterHalted_enters (s : State) (hd : s.engine.state ≠ .dormant) :
    (s.lines.brakeSet.level = false →
      s.enterHalted.engine = { s.engine.enter .halted with brakeWait := some s.time } ∧
      s.enterHalted.publisher = s.publisher.stopped ∧ s.Raises s.enterHalted [.stateChange] ∧
      s.ChangesOnly s.enterHalted [.engine, .publisher, .port]) ∧
    (s.lines.brakeSet.level = true →
      ∃ u : State, u.engine = { s.engine.enter .bypassing with passToCome := some .restart } ∧
        u.publisher = s.publisher.stopped ∧ s.Raises u [.stateChange] ∧
        s.ChangesOnly u [.engine, .publisher, .port] ∧ u.ExitTests s.enterHalted) := by
  have h1 := changeState_engine s .halted
  have h2 := changeState_publisher s .halted
  have h3 := changeState_raises s .halted hd
  have h4 := changeState_only s .halted hd
  unfold State.enterHalted
  dsimp only
  generalize s.changeState .halted = v at h1 h2 h3 h4 ⊢
  have h5 : v.brakeSet = s.lines.brakeSet.level := by
    unfold State.brakeSet
    rw [h4 .lines (by decide)]
  have h6 : v.time = s.time := h4 .time (by decide)
  rw [h5]
  constructor
  · intro hb
    rw [hb, if_neg (by decide)]
    refine ⟨by rw [State.setEngine_engine, h1, h6], h2, h3.after rfl,
      h4.trans ((setEngine_frame v _).more (by decide))⟩
  · intro hb
    rw [if_pos hb]
    obtain ⟨u, u1, u2, u3, u4, u5⟩ := enterBypassing_enters v .restart (by rw [h1]; exact EngineState.noConfusion)
    refine ⟨u, by rw [u1, h1]; rfl, by rw [u2, h2]; rfl, (h3.trans u3).same (fun f => by cases f <;> decide), h4.trans u4, u5⟩

theorem limitInForce_eq (ps : Params) (b : Bool) : ps.limitInForce b = ps.attemptLimit b := rfl

/-- Attempt accounting after the end of a pass, for an engine that is neither in LOCKOUT nor in DORMANT
(R101, R102, R103). -/
theorem accounting_accounts (s : State) (o : PassOutcome) (hd : s.engine.state ≠ .dormant)
    (hl : s.engine.state ≠ .lockout) : s.Accounts (s.endPass o).accounting o := by
  obtain ⟨w, hw⟩ : ∃ w, w = (s.endPass o).sampleLines := ⟨_, rfl⟩
  have hf : s.ChangesOnly w [.engine] := by
    rw [hw]
    exact (endPass_frame s o).trans (setEngine_frame _ _)
  have hlin : (s.endPass o).lines = s.lines := endPass_frame s o .lines (by decide)
  have hman : (s.endPass o).manride = s.lines.manride.level := by
    unfold State.manride
    rw [hlin]
  have hdir : (s.endPass o).dirLower = s.lines.dir.level := by
    unfold State.dirLower
    rw [hlin]
  have he : w.engine = { s.engine.passEnded o with
      sampledManride := some s.lines.manride.level, sampledDir := some s.lines.dir.level } := by
    rw [hw]
    unfold State.sampleLines
    rw [State.setEngine_engine, endPass_passEnded, hman, hdir]
  have hatt : (s.endPass o).engine.attempts = s.engine.attempts := by
    rw [endPass_passEnded]
    rfl
  have hpar : (s.endPass o).params = s.params := endPass_frame s o .params (by decide)
  have hacc : (s.endPass o).accounting =
      if s.engine.attempts < s.params.attemptLimit s.lines.manride.level then
        (w.setEngine { w.engine with attempts := s.engine.attempts + 1 }).enterHalted
      else w.lockout .attempts := by
    unfold State.accounting
    dsimp only
    rw [hatt, hpar, hman, limitInForce_eq, hw]
  have hst : w.engine.state = s.engine.state := by rw [he]; rfl
  have hpub : w.publisher = s.publisher := hf .publisher (by decide)
  have hport : w.port = s.port := hf .port (by decide)
  rw [hacc]
  by_cases hb : s.engine.attempts < s.params.attemptLimit s.lines.manride.level
  · rw [if_pos hb]
    obtain ⟨v, hv⟩ : ∃ v, v = w.setEngine { w.engine with attempts := s.engine.attempts + 1 } := ⟨_, rfl⟩
    have hve : v.engine = { w.engine with attempts := s.engine.attempts + 1 } := by
      rw [hv, State.setEngine_engine]
    have hvf : s.ChangesOnly v [.engine] := by
      rw [hv]
      exact hf.trans (setEngine_frame w _)
    have hvd : v.engine.state ≠ .dormant := by
      rw [hve]
      show w.engine.state ≠ _
      rw [hst]
      exact hd
    have hvp : v.port = s.port := hvf .port (by decide)
    have hvpub : v.publisher = s.publisher := hvf .publisher (by decide)
    have hvt : v.time = s.time := hvf .time (by decide)
    have hvl : v.lines = s.lines := hvf .lines (by decide)
    obtain ⟨hlow, hhigh⟩ := enterHalted_enters v hvd
    rw [hvl] at hlow hhigh
    rw [← hv]
    refine ⟨fun h => absurd hb h, ?_, ?_, ?_, ?_⟩
    · intro _ hbr
      obtain ⟨a1, a2, a3, a4⟩ := hlow hbr
      refine ⟨?_, State.Raises.before hvp a3⟩
      rw [a1, hve, he, hvt]
      rfl
    · intro _ hbr hout
      obtain ⟨u, u1, u2, u3, u4, u5⟩ := hhigh hbr
      have hs : s.ChangesOnly u [.engine, .publisher, .port] := (hvf.more (by decide)).trans u4
      rw [u5.1 (.inr ((State.outstanding_congr (hs .roster (by decide)) (hs .intake (by decide))).mpr hout))]
      refine ⟨?_, State.Raises.before hvp u3⟩
      rw [u1, hve, he]
      rfl
    · rintro (h | hbr | hout)
      · exact absurd hb h
      · obtain ⟨a1, a2, a3, a4⟩ := hlow hbr
        exact ⟨by rw [a2, hvpub], (hvf.more (by decide)).trans a4⟩
      · cases hbr : s.lines.brakeSet.level with
        | false =>
          obtain ⟨a1, a2, a3, a4⟩ := hlow hbr
          exact ⟨by rw [a2, hvpub], (hvf.more (by decide)).trans a4⟩
        | true =>
          obtain ⟨u, u1, u2, u3, u4, u5⟩ := hhigh hbr
          have hs : s.ChangesOnly u [.engine, .publisher, .port] := (hvf.more (by decide)).trans u4
          rw [u5.1 (.inr ((State.outstanding_congr (hs .roster (by decide)) (hs .intake (by decide))).mpr hout))]
          exact ⟨by rw [u2, hvpub], hs⟩
    · intro _ hbr hout
      obtain ⟨u, u1, u2, u3, u4, u5⟩ := hhigh hbr
      have hs : s.ChangesOnly u [.engine, .publisher, .port] := (hvf.more (by decide)).trans u4
      have hout' : ¬u.Outstanding := fun h =>
        hout ((State.outstanding_congr (hs .roster (by decide)) (hs .intake (by decide))).mp h)
      have hx := (u5.2 (by rw [u1]; rfl) hout').2 (by rw [u1])
      have hn : u.engine.attempts = s.engine.attempts + 1 := by
        rw [u1, hve]
        rfl
      rw [hn] at hx
      refine ⟨_, rfl, ?_⟩
      refine State.Rebalances.before (u := u) hx ?_ (by rw [u2, hvpub]; rfl) ?_ ?_
      · rw [u1, hve, he]
        rfl
      · exact State.Raises.before hvp u3
      · have hz : (s.setEngine { { (s.engine.passEnded o).enter .halted with
            sampledManride := some s.lines.manride.level, sampledDir := some s.lines.dir.level } with
            attempts := s.engine.attempts + 1 }).ChangesOnly s [.engine] := by
          intro x hx
          cases x <;> first | rfl | exact absurd (by decide) hx
        exact (hz.more (by decide)).trans hs
  · rw [if_neg hb]
    obtain ⟨a1, a2, a3, a4⟩ := lockout_locksOut w .attempts (by rw [hst]; exact hl) (by rw [hst]; exact hd)
    refine ⟨fun _ => ⟨?_, State.Raises.before hport a3⟩, fun h => absurd h hb, fun h => absurd h hb,
      fun _ => ⟨by rw [a2, hpub], (hf.more (by decide)).trans a4⟩, fun h => absurd h hb⟩
    rw [a1, he]
    rfl

/-! ## Faults and frames -/

/-- A listed entry stands at its place in stamp order (R75). -/
theorem insertEntry_joins (e : Entry) (l : List Entry) : Entry.Joins e l (insertEntry e l) := by
  induction l with
  | nil => exact ⟨[], [], rfl, rfl, by simp, by simp⟩
  | cons x xs ih =>
    unfold insertEntry
    split
    · rename_i h
      exact ⟨[], x :: xs, rfl, rfl, by simp, by simp [h]⟩
    · rename_i h
      obtain ⟨a, b, h1, h2, h3, h4⟩ := ih
      refine ⟨x :: a, b, by simp [h1], by simp [h2], ?_, h4⟩
      intro y hy
      rw [List.mem_cons] at hy
      rcases hy with rfl | hy
      · simpa using h
      · exact h3 y hy

/-- The eligible causes (R55). -/
theorem eligible_iff (c : FaultCause) :
    c.eligible.isSome = true ↔ c = .dcOver ∨ c = .dcUnder ∨ c = .overtemp := by
  cases c <;> decide

/-- Steps 3 and 4 of R59, once the record is FAULTED. -/
theorem faultListed (s u : State) (p : Pos) (cause : FaultCause) (prov : Bool)
    (hrec : ∀ q, u.record q = s.record q) (hport : u.port = s.port) (hmat : u.matrix = s.matrix)
    (hpar : u.params = s.params)
    (t : State) (ht : t = (u.setRecord p ((s.record p).faultTaken cause s.time prov)).setFlag .faultTaken)
    (v : State) (hv : v = if (t.record p).contact = .closed then t.closeCompletion p
      else t.listClose p s.time cause.eligible.isSome prov) :
    v.intake = u.intake ∧
    ((s.record p).contact ≠ .closed →
      v.record p = (s.record p).faultTaken cause s.time prov ∧
      ∃ (e : Entry) (orders : List Entry), e.pos = p ∧ e.kind = .toClose ∧ e.stamp = s.time ∧
        e.holdOffRun = false ∧ e.holdOff = cause.eligible.isSome ∧ e.hold = prov ∧
        e.Joins s.matrix.orders orders ∧ v.matrix = { s.matrix with orders := orders }) ∧
    ((s.record p).contact = .closed →
      v.record p = ((s.record p).faultTaken cause s.time prov).closeCompleted s.params.qLim ∧
      v.matrix = s.matrix) ∧
    s.OtherRecords v p ∧ s.Raises v [.faultTaken] := by
  have h1 : t.record p = (s.record p).faultTaken cause s.time prov := by
    rw [ht, State.setFlag_record, State.record_setRecord_same]
  have h2 : ∀ q, q ≠ p → t.record q = s.record q := by
    intro q hq
    rw [ht, State.setFlag_record, State.record_setRecord_ne _ _ _ _ hq, hrec]
  have h3 : s.Raises t [.faultTaken] := by
    rw [ht]
    exact State.Raises.before hport (setFlag_raises _ _)
  have h4 : t.matrix = s.matrix := by
    rw [ht, ← hmat]
    rfl
  have h5 : t.intake = u.intake := by
    rw [ht]
    rfl
  have h6 : t.params = s.params := by
    rw [ht, ← hpar]
    rfl
  have hc : (t.record p).contact = (s.record p).contact := by
    rw [h1]
    rfl
  rw [hc] at hv
  by_cases hcl : (s.record p).contact = .closed
  · rw [if_pos hcl] at hv
    have hvf : t.ChangesOnly v [.roster] := by
      rw [hv]
      exact closeCompletion_frame t p
    refine ⟨by rw [hvf .intake (by decide), h5], fun h => absurd hcl h, fun _ => ⟨?_, ?_⟩, ?_, ?_⟩
    · rw [hv]
      unfold State.closeCompletion
      rw [State.record_setRecord_same, h1, h6]
    · rw [hvf .matrix (by decide), h4]
    · intro q hq
      rw [hv]
      unfold State.closeCompletion
      rw [State.record_setRecord_ne _ _ _ _ hq, h2 q hq]
    · exact h3.after (hvf .port (by decide))
  · rw [if_neg hcl] at hv
    have hvf : t.ChangesOnly v [.matrix] := by
      rw [hv]
      exact listClose_frame t p _ _ _
    have hvr : v.roster = t.roster := hvf .roster (by decide)
    refine ⟨by rw [hvf .intake (by decide), h5], fun _ => ⟨by rw [State.record_congr hvr, h1], ?_⟩,
      fun h => absurd h hcl, fun q hq => by rw [State.record_congr hvr, h2 q hq],
      h3.after (hvf .port (by decide))⟩
    refine ⟨⟨p, .toClose, s.time, cause.eligible.isSome, false, prov⟩,
      insertEntry ⟨p, .toClose, s.time, cause.eligible.isSome, false, prov⟩ s.matrix.orders,
      rfl, rfl, rfl, rfl, rfl, rfl, insertEntry_joins _ _, ?_⟩
    rw [hv]
    show ({ t.matrix with orders := insertEntry _ t.matrix.orders } : Matrix) = _
    rw [h4]

/-- Steps 1 to 4 of R59 from the state u with the window opened, if one opens. -/
theorem takesFault_of (s u v : State) (p : Pos) (cause : FaultCause) (prov : Bool)
    (hu : u = s ∨ ∃ i, u = s.setIntake i)
    (hprov : prov = true ↔ cause.eligible.isSome = true ∧ s.params.tCC ≠ 0)
    (hv : v = (let t := (u.setRecord p ((u.record p).faultTaken cause s.time prov)).setFlag .faultTaken
      if (t.record p).contact = .closed then t.closeCompletion p
      else t.listClose p s.time cause.eligible.isSome prov))
    (hintake : prov = true → ∃ code, cause.eligible = some code ∧ u.intake = { s.intake with
      provisionals := s.intake.provisionals ++ [{ pos := p, code := code, stamp := s.time }] })
    (hsame : prov = false → u = s) (hframe : s.ChangesOnly v [.roster, .intake, .matrix, .port]) :
    s.TakesFault v p cause := by
  have hrec : ∀ q, u.record q = s.record q := by
    rcases hu with h | ⟨i, h⟩
    · rw [h]
      exact fun _ => rfl
    · rw [h]
      exact fun q => State.setIntake_record s i q
  have hport : u.port = s.port := by rcases hu with h | ⟨i, h⟩ <;> rw [h] <;> rfl
  have hmat : u.matrix = s.matrix := by rcases hu with h | ⟨i, h⟩ <;> rw [h] <;> rfl
  have hpar : u.params = s.params := by rcases hu with h | ⟨i, h⟩ <;> rw [h] <;> rfl
  rw [hrec p] at hv
  obtain ⟨k1, k2, k3, k4, k5⟩ := faultListed s u p cause prov hrec hport hmat hpar _ rfl v hv
  unfold State.TakesFault
  dsimp only
  rw [← eligible_iff]
  refine ⟨?_, ?_, ?_, ?_, k4, k5, hframe⟩
  · intro h
    cases prov with
    | true => exact absurd (hprov.mp rfl) h
    | false => rw [k1, hsame rfl]
  · intro h
    obtain ⟨code, c1, c2⟩ := hintake (hprov.mpr h)
    exact ⟨code, c1, by rw [k1, c2]⟩
  · intro h
    obtain ⟨r1, e, orders, e1, e2, e3, e4, e5, e6, e7, e8⟩ := k2 h
    refine ⟨⟨if prov then some (s.record p).state else (s.record p).prior, ?_, ?_, ?_⟩,
      e, orders, e1, e2, e3, e4, by rw [e5], by rw [e6, hprov], e7, e8⟩
    · intro a
      rw [if_pos (hprov.mpr a)]
    · intro a
      rw [if_neg (fun b => a (hprov.mp b))]
    · rw [r1]
      rfl
  · intro h
    obtain ⟨r1, r2⟩ := k3 h
    refine ⟨?_, r2⟩
    rw [r1]
    unfold Record.closeCompleted Record.faultTaken
    dsimp only
    rw [if_pos (.inl rfl)]
    congr 1
    simp only [Bool.or_eq_true, decide_eq_true_eq, Option.isSome_iff_ne_none]

/-- Steps 1 to 4 of R59 take a fault, whatever its cause. -/
theorem applyFault_takes (s : State) (p : Pos) (cause : FaultCause) :
    s.TakesFault (s.applyFault p cause s.time) p cause := by
  have hframe : s.ChangesOnly (s.applyFault p cause s.time) [.roster, .intake, .matrix, .port] :=
    (applyFault_frame s p cause s.time).more (by decide)
  have hx : (s.provisionalCode cause = none ∧ ¬(cause.eligible.isSome = true ∧ s.params.tCC ≠ 0)) ∨
      ∃ code, s.provisionalCode cause = some code ∧ cause.eligible = some code ∧ s.params.tCC ≠ 0 := by
    unfold State.provisionalCode
    by_cases h : s.params.tCC = 0
    · exact .inl ⟨by rw [if_pos h], fun a => a.2 h⟩
    · rw [if_neg h]
      cases hc : cause.eligible with
      | none => exact .inl ⟨rfl, fun a => by simp at a⟩
      | some code => exact .inr ⟨code, rfl, rfl, h⟩
  rcases hx with ⟨h1, h2⟩ | ⟨code, h1, h2, h3⟩
  · refine takesFault_of s s _ p cause false (.inl rfl) ⟨fun a => (Bool.noConfusion a), fun a => absurd a h2⟩ ?_
      (fun a => (Bool.noConfusion a)) (fun _ => rfl) hframe
    unfold State.applyFault
    rw [h1]
    rfl
  · refine takesFault_of s (s.openWindow p code s.time) _ p cause true (.inr ⟨_, rfl⟩)
      ⟨fun _ => ⟨by rw [h2]; rfl, h3⟩, fun _ => rfl⟩ ?_ (fun _ => ⟨code, h2, rfl⟩)
      (fun a => (Bool.noConfusion a)) hframe
    unfold State.applyFault
    rw [h1]
    rfl

end Sys2Proof.Machine
end

