-- ==== Sys2Proof/Laws/Commands.lean ====
section
/-! SUPPORT. What the operations behind single commands do, in the terms of Safety.lean: how a command runs,
request bytes and frames, acceptance and bad frames, the pass condition and the fault notice, reports, and
restorations. -/

namespace Sys2Proof.Machine

/-! ## How a command runs -/

theorem whileRunning_running {s : State} (hm : s.mode = .running) (f : State → State) :
    s.whileRunning f = f s := by
  unfold State.whileRunning
  rw [hm]

theorem whileRunning_stopped {s : State} (hm : s.mode ≠ .running) (f : State → State) :
    s.whileRunning f = s := by
  unfold State.whileRunning
  split
  · rename_i h
    exact absurd h hm
  · rfl
  · rfl

theorem whenDue_due {s : State} (hm : s.mode = .running) {b : Bool} (hb : b = true) (f : State → State) :
    s.whenDue b f = f s := by
  unfold State.whenDue
  rw [whileRunning_running hm, if_pos hb]

theorem whenDue_stopped {s : State} (hm : s.mode ≠ .running) (b : Bool) (f : State → State) :
    s.whenDue b f = s := by
  unfold State.whenDue
  exact whileRunning_stopped hm _

theorem edge_running {s : State} (hm : s.mode = .running) (settled presented event : State → State) :
    s.edge settled presented event = event (settled s) := by
  unfold State.edge
  rw [hm]

theorem edge_stopped {s : State} (hm : s.mode ≠ .running) (settled presented event : State → State) :
    s.edge settled presented event = presented s := by
  unfold State.edge
  split
  · rename_i h
    exact absurd h hm
  · rfl
  · rfl

/-- A wait that has run its time. -/
theorem reached_of {now since : Stamp} {n : Nat} (h : n ≤ (now - since).toNat) :
    reached now (some since) n = true := decide_eq_true h

/-- A request whose operation answers a code and a payload, the time base kept. -/
theorem performs_of {s u : State} (hm : s.mode = .running) {i : Instr} {tag : Byte} {op : State → Executed}
    {code : AnswerCode} {payload : List Byte} (he : exec i s = .next (s.request tag op))
    (ho : op s = { reply := { code := code, payload := payload }, state := u }) (ht : u.time = s.time) :
    s.Performs i tag code payload u := by
  unfold State.Performs
  rw [he]
  unfold State.request
  rw [whileRunning_running hm]
  simp only [ho, State.answered, ht]

/-- A request whose operation refuses. -/
theorem refuses_of {s : State} (hm : s.mode = .running) {i : Instr} {tag : Byte} {op : State → Executed}
    {code : AnswerCode} (he : exec i s = .next (s.request tag op)) (ho : op s = s.reply (.refusal code)) :
    s.Refuses i tag code := performs_of hm he ho rfl

/-! ## Argument bytes, flags and tables -/

theorem posOfByte_posByte (p : Pos) : posOfByte (posByte p) = some p := by
  revert p
  decide

theorem chanOfByte_chanByte (ch : Chan) : chanOfByte (chanByte ch) = some ch := by
  revert ch
  decide

theorem posOfByte_above {b : Byte} (h : 30 ≤ b.toNat) : posOfByte b = none := by
  unfold posOfByte
  rw [dif_neg (by omega)]

theorem chanOfByte_above {b : Byte} (h : 32 ≤ b.toNat) : chanOfByte b = none := by
  unfold chanOfByte
  rw [dif_neg (by omega)]

theorem channelPos_assigned {s : State} {ch : Chan} {p : Pos} (h : s.Assigned ch p) :
    s.channelPos ch = some p := State.channelPos_eq h.1 h.2

theorem channelPos_unassigned {s : State} {ch : Chan} (h : s.Unassigned ch) : s.channelPos ch = none := by
  cases hc : s.channelPos ch with
  | none => rfl
  | some p => exact absurd (State.channelPos_some hc) (h p)

/-- Flags left after an ACK (R181). -/
theorem getLsbD_cleared (a b : Byte) (n : Nat) :
    (a &&& ~~~b).getLsbD n = (a.getLsbD n && !b.getLsbD n) := by
  by_cases h : n < 8
  · simp [h]
  · simp [BitVec.getLsbD_of_ge _ _ (by omega : 8 ≤ n)]

/-- Flags and mask that have no bit in common (R183). -/
theorem masked_iff (f m : Byte) :
    (((f &&& m) == 0x00#8) = false) ↔ ∃ n, f.getLsbD n = true ∧ m.getLsbD n = true := by
  constructor
  · intro h
    by_contra hcon
    have : f &&& m = 0x00#8 := by
      apply BitVec.eq_of_getLsbD_eq
      intro i hi
      simp only [BitVec.getLsbD_and]
      simp only [not_exists, not_and] at hcon
      have := hcon i
      cases hf : f.getLsbD i <;> simp_all
    simp [this] at h
  · rintro ⟨n, h1, h2⟩
    simp only [beq_eq_false_iff_ne, ne_eq]
    intro h
    have : (f &&& m).getLsbD n = true := by simp [h1, h2]
    simp [h] at this

theorem amends_iff (st : EngineState) :
    st.amends = true ↔ st = .config ∨ st = .dormant ∨ st = .lockout := by
  cases st <;> simp [EngineState.amends]

theorem findShift_isSome (l : List ShiftEntry) (k : Key) :
    (findShift l k).isSome = true ↔ ∃ e ∈ l, e.key = k := by
  simp [findShift]

/-! ## Request frames (R169, R173, R201) -/

theorem byteBits_byteOfBits (b : Byte) : ∃ b7 b6 b5 b4 b3 b2 b1 b0,
    byteBits b = [b7, b6, b5, b4, b3, b2, b1, b0] ∧ byteOfBits b7 b6 b5 b4 b3 b2 b1 b0 = b := by
  refine ⟨_, _, _, _, _, _, _, _, rfl, ?_⟩
  revert b
  decide

theorem mosiBytes_cons (b : Byte) (rest : List Bool) : mosiBytes (byteBits b ++ rest) = b :: mosiBytes rest := by
  obtain ⟨b7, b6, b5, b4, b3, b2, b1, b0, h, h'⟩ := byteBits_byteOfBits b
  rw [h]
  show byteOfBits b7 b6 b5 b4 b3 b2 b1 b0 :: mosiBytes rest = _
  rw [h']

theorem mosiBytes_flatMap (bytes : List Byte) (rest : List Bool) :
    mosiBytes (bytes.flatMap byteBits ++ rest) = bytes ++ mosiBytes rest := by
  induction bytes with
  | nil => rfl
  | cons b bytes ih => rw [List.flatMap_cons, List.append_assoc, mosiBytes_cons, ih]; rfl

/-- Fewer than eight samples left over are discarded (R169). -/
theorem mosiBytes_short (l : List Bool) (h : l.length < 8) : mosiBytes l = [] := by
  match l, h with
  | [], _ => rfl
  | [_], _ => rfl
  | [_, _], _ => rfl
  | [_, _, _], _ => rfl
  | [_, _, _, _], _ => rfl
  | [_, _, _, _, _], _ => rfl
  | [_, _, _, _, _, _], _ => rfl
  | [_, _, _, _, _, _, _], _ => rfl
  | _ :: _ :: _ :: _ :: _ :: _ :: _ :: _ :: _, h => simp at h; omega

/-- A SERVING transaction ends in the judgment of its request (R170). -/
theorem transactionEnd_served {s : State} (mosi : List Bool) (hm : s.mode = .running) (hc : s.csN = false)
    (hs : s.port.state = .serving) : exec (.transactionEnd mosi) s = .next ((s.setCsN true).served mosi) := by
  show execTransactionEnd mosi s = _
  unfold execTransactionEnd State.transactionEnd State.csRise
  rw [hc, if_neg (by decide), hm]
  simp only [State.setCsN_port, hs]

theorem word32_bytes4 (n : BitVec 32) : word32 (byteOf (n.toNat / 16777216)) (byteOf (n.toNat / 65536))
    (byteOf (n.toNat / 256)) (byteOf n.toNat) = n := by
  unfold word32 byteOf
  apply BitVec.eq_of_toNat_eq
  simp only [BitVec.toNat_append, BitVec.toNat_ofNat, Nat.shiftLeft_eq]
  have := n.isLt
  have two (a b : Nat) (hb : b < 256) : a * 2 ^ 8 ||| b = a * 256 + b := by
    rw [← Nat.shiftLeft_eq, ← Nat.shiftLeft_add_eq_or_of_lt hb, Nat.shiftLeft_eq]
  rw [two _ _ (Nat.mod_lt _ (by decide)), two _ _ (Nat.mod_lt _ (by decide)), two _ _ (Nat.mod_lt _ (by decide))]
  omega

theorem word16_bytes2 (n : BitVec 16) : word16 (byteOf (n.toNat / 256)) (byteOf n.toNat) = n := by
  unfold word16 byteOf
  apply BitVec.eq_of_toNat_eq
  simp only [BitVec.toNat_append, BitVec.toNat_ofNat]
  have := n.isLt
  rw [← Nat.shiftLeft_add_eq_or_of_lt (Nat.mod_lt _ (by decide)), Nat.shiftLeft_eq]
  omega

/-- A whole frame with a right CRC goes to the judgment of its code (R173). -/
theorem judgeFrame_whole (code tag len : Byte) (payload more : List Byte) (hl : len.toNat = payload.length)
    (h40 : payload.length ≤ 40) :
    judgeFrame (code :: tag :: len :: (payload ++ crc8 (code :: tag :: len :: payload) :: more)) =
      judgeCode code tag payload := by
  show (if 40 < len.toNat then _ else _) = _
  rw [if_neg (by omega), hl, List.drop_left, List.take_left]
  show (if _ = _ then _ else _) = _
  rw [if_pos rfl]

/-! ## Links -/

theorem setFraming_link (s : State) (ch : Chan) (o : Option OpenFrame) :
    (s.setFraming ch o).link ch = { s.link ch with rx := { (s.link ch).rx with frame := o } } := by
  unfold State.setFraming State.setRx
  rw [State.link_setLink_same]

theorem setRx_link (s : State) (ch : Chan) (r : Receiver) :
    (s.setRx ch r).link ch = { s.link ch with rx := r } := by
  unfold State.setRx
  rw [State.link_setLink_same]

theorem setTx_link (s : State) (ch : Chan) (t : Transmitter) :
    (s.setTx ch t).link ch = { s.link ch with tx := t } := by
  unfold State.setTx
  rw [State.link_setLink_same]

theorem setRx_other (s : State) (ch : Chan) (r : Receiver) : s.OtherLinks (s.setRx ch r) ch := fun c hc => by
  unfold State.setRx
  rw [State.link_setLink_ne _ _ _ _ hc]

theorem setTx_other (s : State) (ch : Chan) (t : Transmitter) : s.OtherLinks (s.setTx ch t) ch := fun c hc => by
  unfold State.setTx
  rw [State.link_setLink_ne _ _ _ _ hc]

theorem clearRun_clears (s : State) (p : Pos) :
    (s.clearRun p).record p = { s.record p with cleanRun := some 0 } ∧ s.OtherRecords (s.clearRun p) p ∧
    s.ChangesOnly (s.clearRun p) [.roster] := by
  unfold State.clearRun
  exact ⟨by simp, fun q hq => State.record_setRecord_ne _ _ _ _ hq, setRecord_frame _ _ _⟩

theorem clean_iff (s : State) (f : UplinkFields) : f.clean s.params = true ↔ s.CleanFrame f := by
  unfold UplinkFields.clean State.CleanFrame
  simp only [Bool.and_eq_true, Bool.or_eq_true, beq_iff_eq, decide_eq_true_eq, and_assoc]

/-- A bad frame that crosses 32 (R43). -/
theorem crosses_iff (r : Receiver) :
    r.crosses = true ↔ r.score < 32 ∧ 28 ≤ r.score ∧ r.degraded = false := by
  unfold Receiver.crosses scoreAfterBad Config.errorLimit Config.errorCeiling
  simp only [Bool.and_eq_true, decide_eq_true_eq, Bool.not_eq_true', and_assoc]
  constructor
  · rintro ⟨a, b, c⟩
    exact ⟨a, by omega, c⟩
  · rintro ⟨a, b, c⟩
    exact ⟨a, by omega, c⟩

/-- A frame accepted and written into the record of its channel, if it has one, before anything is reported of
it (R37 to R39, R49). -/
def State.frameWritten (s : State) (ch : Chan) (assigned : Option Pos) (f : UplinkFields) : State :=
  let s1 := (s.setFraming ch none).setRx ch (((s.setFraming ch none).link ch).rx.accepted f.seq s.time)
  match assigned with
  | none => s1
  | some p =>
    let s2 := s1.setRecord p ((s1.record p).measured f (f.clean s.params))
    if f.clean s.params then s2.clearFaultReset ch else s2

theorem frameWritten_accepts (s : State) (ch : Chan) (assigned : Option Pos) (f : UplinkFields) :
    s.Accepts (s.frameWritten ch assigned f) ch assigned f := by
  obtain ⟨s1, hs1⟩ : ∃ s1, s1 =
      (s.setFraming ch none).setRx ch (((s.setFraming ch none).link ch).rx.accepted f.seq s.time) := ⟨_, rfl⟩
  have e1 : s1.link ch = { s.link ch with rx :=
      { link := .live, score := (s.link ch).rx.score - 1, lastSeq := some f.seq
        degraded := if (s.link ch).rx.score = 1 then false else (s.link ch).rx.degraded
        frame := none, silence := some s.time } } := by
    rw [hs1, setRx_link, setFraming_link]
    rfl
  have e2 : s.OtherLinks s1 ch := fun c hc => by
    rw [hs1, setRx_other _ _ _ c hc]
    exact setRx_other s ch _ c hc
  have e3 : s.ChangesOnly s1 [.links] := by
    rw [hs1]
    exact (setRx_frame s ch _).trans (setRx_frame _ ch _)
  unfold State.frameWritten
  dsimp only
  rw [← hs1]
  clear hs1
  have e4 : ∀ p, s1.record p = s.record p := State.record_congr (e3 .roster (by decide))
  cases assigned with
  | none =>
    exact ⟨by rw [e1], by rw [e1], by rw [e1], fun h => (by cases h), fun _ => by rw [e1], e2,
      fun p h => (by cases h), fun p _ => e4 p, e3.more (by decide)⟩
  | some p =>
    dsimp only
    have hrec : ∃ run, (s.CleanFrame f → run = min 31 ((s.record p).cleanRun.getD 0 + 1)) ∧
        (¬s.CleanFrame f → run = 0) ∧
        (s1.record p).measured f (f.clean s.params) = { s.record p with
          voltage := some f.voltage, temperature := some f.temperature, reported := some f.code,
          cleanRun := some run } := by
      refine ⟨if f.clean s.params then min 31 ((s.record p).cleanRun.getD 0 + 1) else 0,
        fun h => by rw [if_pos ((clean_iff s f).mpr h)],
        fun h => by rw [if_neg (fun e => h ((clean_iff s f).mp e))], ?_⟩
      rw [e4]
      rfl
    generalize (s1.record p).measured f (f.clean s.params) = r at *
    have g1 : (s1.setRecord p r).link ch = s1.link ch := by simp
    have g2 : s1.OtherLinks (s1.setRecord p r) ch := fun c _ => by simp
    have g3 := setRecord_frame s1 p r
    have g4 : (s1.setRecord p r).record p = r := by simp
    have g5 : ∀ q, q ≠ p → (s1.setRecord p r).record q = s.record q := fun q hq => by
      rw [State.record_setRecord_ne _ _ _ _ hq, e4]
    generalize s1.setRecord p r = s2 at *
    by_cases hc : f.clean s.params = true
    · rw [if_pos hc]
      have hc' := (clean_iff s f).mp hc
      have k1 : (s2.clearFaultReset ch).link ch =
          { s2.link ch with tx := { (s2.link ch).tx with faultReset := false } } := setTx_link _ _ _
      have k2 : s2.OtherLinks (s2.clearFaultReset ch) ch := setTx_other _ _ _
      have k3 : s2.ChangesOnly (s2.clearFaultReset ch) [.links] := setTx_frame _ _ _
      have k4 : ∀ q, (s2.clearFaultReset ch).record q = s2.record q :=
        State.record_congr (k3 .roster (by decide))
      refine ⟨by rw [k1, g1, e1], by rw [k1, g1, e1], by rw [k1, g1, e1], fun _ _ => by rw [k1], fun h => ?_,
        fun c h => by rw [k2 c h, g2 c h, e2 c h], fun q hq => ?_,
        fun q hq => by rw [k4, g5 q (fun e => hq (by rw [e]))],
        (e3.more (by decide)).trans ((g3.more (by decide)).trans (k3.more (by decide)))⟩
      · rcases h with h | h
        · cases h
        · exact absurd hc' h
      · cases hq
        obtain ⟨run, a, b, c⟩ := hrec
        exact ⟨run, a, b, by rw [k4, g4, c]⟩
    · rw [if_neg hc]
      have hc' : ¬s.CleanFrame f := fun e => hc ((clean_iff s f).mpr e)
      refine ⟨by rw [g1, e1], by rw [g1, e1], by rw [g1, e1], fun _ h => absurd h hc', fun h => by rw [g1, e1],
        fun c h => by rw [g2 c h, e2 c h], fun q hq => ?_,
        fun q hq => by rw [g5 q (fun e => hq (by rw [e]))], (e3.more (by decide)).trans (g3.more (by decide))⟩
      cases hq
      obtain ⟨run, a, b, c⟩ := hrec
      exact ⟨run, a, b, by rw [g4, c]⟩

theorem acceptFrame_unassigned (s : State) (ch : Chan) (f : UplinkFields) (h : s.channelPos ch = none) :
    (s.setFraming ch none).acceptFrame ch f = (s.frameWritten ch none f).setFlag .strayFrame := by
  unfold State.acceptFrame State.frameWritten
  dsimp only
  have : (s.setFraming ch none).channelPos ch = none := by
    rw [State.channelPos_congr (s := s)]
    · exact h
    · rfl
  have e : (s.setFraming ch none).time = s.time := rfl
  rw [e, this]

theorem acceptFrame_assigned (s : State) (ch : Chan) (f : UplinkFields) (p : Pos)
    (h : s.channelPos ch = some p) : (s.setFraming ch none).acceptFrame ch f =
      if f.code = .none then
        if f.clean s.params ∧ (s.record p).cleanRun.getD 0 < 31 ∧ s.verifies p then
          (s.frameWritten ch (some p) f).passTest
        else s.frameWritten ch (some p) f
      else (s.frameWritten ch (some p) f).reportCode p f.code := by
  unfold State.acceptFrame State.frameWritten State.frameToRecord
  dsimp only
  have : (s.setFraming ch none).channelPos ch = some p := by
    rw [State.channelPos_congr (s := s)]
    · exact h
    · rfl
  have e : (s.setFraming ch none).time = s.time := rfl
  rw [e, this]
  dsimp only
  have e3 : s.ChangesOnly
      ((s.setFraming ch none).setRx ch (((s.setFraming ch none).link ch).rx.accepted f.seq s.time)) [.links] :=
    (setRx_frame s ch _).trans (setRx_frame _ ch _)
  generalize (s.setFraming ch none).setRx ch (((s.setFraming ch none).link ch).rx.accepted f.seq s.time) = s1 at *
  have e4 : ∀ p, s1.record p = s.record p := State.record_congr (e3 .roster (by decide))
  have e5 : s1.params = s.params := e3 .params (by decide)
  have e6 : s1.verifies p = s.verifies p := by
    unfold State.verifies
    rw [e3 .publisher (by decide)]
  rw [e5, e4, e6]

/-! ## The pass condition and the fault notice -/

theorem passCondition_iff (s : State) : s.passCondition = true ↔ s.PassHolds := by
  unfold State.passCondition State.PassHolds State.short Params.cleanNeeded
  cases s.publisher.verified with
  | none => simp
  | some ps =>
    simp only [Bool.and_eq_true, List.all_eq_true, Option.some.injEq, exists_eq_left']
    refine and_congr_right fun _ => forall_congr' fun p => forall_congr' fun _ => ?_
    by_cases h : s.params.kClean = 0
    · simp [h]
      omega
    · simp [h]
      omega

/-- Verification passed in a state other than DORMANT (R109, R110, R163). -/
theorem verificationPassed_passes (s : State) (hd : s.engine.state ≠ .dormant) :
    s.Passes s.verificationPassed := by
  intro pass hp
  unfold State.verificationPassed
  rw [hp]
  dsimp only
  have a1 := changeState_engine s .running
  have a2 := changeState_publisher s .running
  have a3 := changeState_raises s .running hd
  have a4 := changeState_only s .running hd
  have b1 := changeState_engine s .proving
  have b2 := changeState_publisher s .proving
  have b3 := changeState_raises s .proving hd
  have b4 := changeState_only s .proving hd
  cases hk : pass.kind with
  | cold =>
    dsimp only
    unfold State.enterRunning
    rw [hp]
    dsimp only
    rw [hk]
    dsimp only
    generalize s.changeState .running = u at *
    exact ⟨fun _ => by rw [State.setEngine_engine, a1], fun h => (by cases h), a2, a3.after rfl,
      a4.trans ((setEngine_frame _ _).more (by decide))⟩
  | restart =>
    dsimp only
    unfold State.enterProving
    generalize s.changeState .proving = u at *
    have ht : u.time = s.time := b4 .time (by decide)
    exact ⟨fun h => (by cases h), fun _ => by dsimp only; rw [State.setEngine_engine, b1, ht], b2, b3.after rfl,
      b4.trans ((setEngine_frame _ _).more (by decide))⟩

theorem passTest_tests (s : State) : s.PassTests s.passTest := by
  constructor
  · intro h1 h2
    unfold State.passTest
    rw [if_pos ⟨h1, (passCondition_iff s).mpr h2⟩]
    exact verificationPassed_passes s (by rw [h1]; decide)
  · intro h
    unfold State.passTest
    rw [if_neg]
    rintro ⟨h1, h2⟩
    rcases h with h | h
    · exact h h1
    · exact h ((passCondition_iff s).mp h2)

theorem faultNotice_notified (s : State) : s.Notified s.faultNotice := by
  unfold State.Notified State.faultNotice
  cases h : s.engine.state
  case publishing =>
    rw [if_pos (by simp)]
    exact accounting_accounts s _ (by rw [h]; decide) (by rw [h]; decide)
  case verifying =>
    rw [if_pos (by simp)]
    exact accounting_accounts s _ (by rw [h]; decide) (by rw [h]; decide)
  case proving =>
    rw [if_pos (by simp)]
    exact accounting_accounts s _ (by rw [h]; decide) (by rw [h]; decide)
  case running =>
    rw [if_pos (by simp)]
    exact accounting_accounts s _ (by rw [h]; decide) (by rw [h]; decide)
  case bypassing =>
    rw [if_neg (by simp)]
    exact exitTest_tests s
  all_goals
    rw [if_neg (by simp)]
    exact ⟨fun _ => rfl, fun h' => by rw [h] at h'; cases h'⟩

/-! ## Reports -/

theorem takesCode_iff (st : EngineState) (code : CellCode) :
    st.takesCode code = true ↔ st ≠ .config ∧ st ≠ .dormant ∧ ¬(st = .charging ∧ code = .dcUnder) := by
  unfold EngineState.takesCode
  cases st <;> simp

theorem takesLink_iff (st : EngineState) :
    st.takesLink = true ↔ st ≠ .config ∧ st ≠ .dormant ∧ st ≠ .charging := by
  unfold EngineState.takesLink
  cases st <;> simp

theorem reportLink_untaken {s : State} {p : Pos} {c : FaultCause}
    (h : ¬((s.record p).state.active = true ∧ s.engine.state ≠ .config ∧ s.engine.state ≠ .dormant ∧
      s.engine.state ≠ .charging)) : s.reportLink p c = s := by
  unfold State.reportLink
  rw [if_neg]
  rintro ⟨a, b⟩
  exact h ⟨a, (takesLink_iff _).mp b⟩

theorem reportLink_taken {s : State} {p : Pos} {c : FaultCause} (hc : c = .linkLost ∨ c = .linkDegraded)
    (h : (s.record p).state.active = true ∧ s.engine.state ≠ .config ∧ s.engine.state ≠ .dormant ∧
      s.engine.state ≠ .charging) :
    ∃ w, s.TakesFault w p c ∧ w.Notified (s.reportLink p c) ∧ (s.reportLink p c).links = s.links := by
  unfold State.reportLink
  rw [if_pos ⟨h.1, (takesLink_iff _).mpr h.2⟩]
  unfold State.takeFault
  refine ⟨s.applyFault p c s.time, applyFault_takes s p c, ?_⟩
  have : s.provisionalCode c = none := by
    unfold State.provisionalCode
    split
    · rfl
    · rcases hc with rfl | rfl <;> rfl
  rw [this]
  refine ⟨faultNotice_notified _, ?_⟩
  dsimp only
  rw [faultNotice_frame _ .links (by decide), applyFault_frame _ _ _ _ .links (by decide)]

/-! ## Restorations -/

/-- What one restoration does. -/
theorem restoreMember_spec (s : State) (q : Pos) :
   (s.restoreMember q).record q = (s.record q).restored ∧ s.OtherRecords (s.restoreMember q) q ∧
   (s.restoreMember q).matrix = { s.matrix with orders := withoutEntry q .toClose s.matrix.orders } ∧
   s.ChangesOnly (s.restoreMember q) [.roster, .matrix] := by
  unfold State.restoreMember
  dsimp only
  refine ⟨by simp, fun c hc => by rw [State.record_setRecord_ne _ _ _ _ hc]; simp, rfl, ?_⟩
  exact ((setOrders_frame s _).more (by decide)).trans ((setRecord_frame _ _ _).more (by decide))

theorem restored_some {r : Record} {st} (h1 : r.state = .faulted) (h2 : r.prior = some st) : r.restored = { r with state := st, prior := none } := by
  unfold Record.restored; rw [h1, h2]
theorem restored_none {r : Record} (h : r.state ≠ .faulted ∨ r.prior = none) : r.restored = r := by
  unfold Record.restored
  split
  · rename_i st h1 h2; rcases h with h | h; exact absurd h1 h; rw [h2] at h; cases h
  · rfl
theorem restored_restored (r : Record) : r.restored.restored = r.restored := by
  by_cases h : r.state ≠ .faulted ∨ r.prior = none
  · rw [restored_none h, restored_none h]
  · simp only [not_or, Decidable.not_not] at h
    obtain ⟨st, hst⟩ := Option.ne_none_iff_exists'.mp h.2
    rw [restored_some h.1 hst]
    exact restored_none (.inr rfl)

/-- What the restoration of a list does, member by member. -/
theorem restoreMembers_spec (l : List Pos) (s : State) :
   (∀ q, q ∈ l → (l.foldl State.restoreMember s).record q = (s.record q).restored) ∧
   (∀ q, q ∉ l → (l.foldl State.restoreMember s).record q = s.record q) ∧
   (∀ e, e ∈ (l.foldl State.restoreMember s).matrix.orders ↔ e ∈ s.matrix.orders ∧ ¬(e.pos ∈ l ∧ e.kind = .toClose)) ∧
   (l.foldl State.restoreMember s).matrix = { s.matrix with orders := (l.foldl State.restoreMember s).matrix.orders } ∧
   s.ChangesOnly (l.foldl State.restoreMember s) [.roster, .matrix] := by
  induction l generalizing s with
  | nil => exact ⟨fun q h => by simp at h, fun q _ => rfl, fun e => by simp, rfl, .refl _ _⟩
  | cons a l ih =>
    obtain ⟨b1, b2, b3, b4⟩ := restoreMember_spec s a
    obtain ⟨i1, i2, i3, i4, i5⟩ := ih (s.restoreMember a)
    rw [List.foldl_cons]
    refine ⟨fun q hq => ?_, fun q hq => ?_, fun e => ?_, by rw [i4, b3], b4.trans i5⟩
    · by_cases hql : q ∈ l
      · rw [i1 q hql]
        by_cases hqa : q = a
        · subst hqa; rw [b1, restored_restored]
        · rw [b2 q hqa]
      · rw [i2 q hql]
        have : q = a := by simpa [hql] using hq
        subst this; exact b1
    · rw [i2 q (fun h => hq (List.mem_cons_of_mem _ h)), b2 q (fun h => hq (by rw [h]; exact List.mem_cons_self))]
    · rw [i3 e, b3]
      unfold withoutEntry
      simp only [List.mem_filter, Bool.not_eq_true', Bool.and_eq_false_iff, beq_eq_false_iff_ne, List.mem_cons]
      constructor
      · rintro ⟨⟨h1, h2⟩, h3⟩
        refine ⟨h1, fun h => ?_⟩
        obtain ⟨h4 | h4, h5⟩ := h
        · rcases h2 with h2 | h2; exact h2 h4; exact h2 h5
        · exact h3 ⟨h4, h5⟩
      · rintro ⟨h1, h2⟩
        refine ⟨⟨h1, ?_⟩, fun h => h2 ⟨.inr h.1, h.2⟩⟩
        by_cases ha : e.pos = a
        · right; intro hk; exact h2 ⟨.inl ha, hk⟩
        · left; exact ha

/-- Restoring members none of whose contacts is closed, and the LOCKOUT that follows. -/
theorem restoreAll_spec (w : State) (l : List Pos) (hd : w.engine.state ≠ .dormant) (hc : ∀ q ∈ l, (w.record q).contact ≠ .closed) :
   (∀ q, q ∈ l → (w.restoreAll l).record q = (w.record q).restored) ∧
   (∀ q, q ∉ l → (w.restoreAll l).record q = w.record q) ∧
   (∀ e, e ∈ (w.restoreAll l).matrix.orders ↔ e ∈ w.matrix.orders ∧ ¬(e.pos ∈ l ∧ e.kind = .toClose)) ∧
   (w.restoreAll l).matrix = { w.matrix with orders := (w.restoreAll l).matrix.orders } ∧
   (w.engine.state ≠ .lockout → (w.restoreAll l).engine = w.engine.lockedOut .commonCause ∧
        (w.restoreAll l).publisher = w.publisher.stopped ∧ w.Raises (w.restoreAll l) [.stateChange, .lockedOut]) ∧
   (w.engine.state = .lockout → (w.restoreAll l).engine = w.engine ∧ (w.restoreAll l).publisher = w.publisher ∧ (w.restoreAll l).port = w.port) ∧
   (w.restoreAll l).intake = w.intake ∧
   w.ChangesOnly (w.restoreAll l) [.roster, .matrix, .engine, .publisher, .port] := by
  obtain ⟨f1, f2, f3, f4, f5⟩ := restoreMembers_spec l w
  unfold State.restoreAll
  dsimp only
  generalize l.foldl State.restoreMember w = u at *
  have he : u.engine = w.engine := f5 .engine (by decide)
  have hlock : u.ChangesOnly (u.lockout .commonCause) [.engine, .publisher, .port] := by
    by_cases hl : u.engine.state = .lockout
    · rw [lockout_locked _ _ hl]; exact .refl _ _
    · exact (lockout_locksOut u .commonCause hl (by rw [he]; exact hd)).2.2.2
  have hclose : ∀ (m : List Pos) (t : State), (∀ q ∈ m, (t.record q).contact ≠ .closed) → m.foldl State.closeRestored t = t := by
    intro m
    induction m with
    | nil => intro t _; rfl
    | cons a m ih =>
      intro t ht
      rw [List.foldl_cons]
      have : t.closeRestored a = t := by
        unfold State.closeRestored; rw [if_neg (fun h => ht a List.mem_cons_self h.2)]
      rw [this]; exact ih t (fun q hq => ht q (List.mem_cons_of_mem _ hq))
  have hrr : ∀ q, (u.lockout .commonCause).record q = u.record q := State.record_congr (hlock .roster (by decide))
  rw [hclose]
  · refine ⟨fun q hq => by rw [hrr, f1 q hq], fun q hq => by rw [hrr, f2 q hq], fun e => by rw [hlock .matrix (by decide), f3 e], by rw [hlock .matrix (by decide)]; exact f4, fun hl => ?_, fun hl => ?_, by rw [hlock .intake (by decide), f5 .intake (by decide)], (f5.more (by decide)).trans (hlock.more (by decide))⟩
    · obtain ⟨a1, a2, a3, _⟩ := lockout_locksOut u .commonCause (by rw [he]; exact hl) (by rw [he]; exact hd)
      exact ⟨by rw [a1, he], by rw [a2, f5 .publisher (by decide)], State.Raises.before (f5 .port (by decide)) a3⟩
    · rw [lockout_locked _ _ (by rw [he]; exact hl)]
      exact ⟨he, f5 .publisher (by decide), f5 .port (by decide)⟩
  · intro q hq
    rw [hrr]
    have hq' := (List.mem_filter.mp hq).1
    rw [f1 q hq']
    have : (w.record q).restored.contact = (w.record q).contact := by
      unfold Record.restored; split <;> rfl
    rw [this]; exact hc q hq'

/-- Sorting faults keeps them. -/
theorem mem_insertProvisional (f x : Provisional) (l) : x ∈ insertProvisional f l ↔ x = f ∨ x ∈ l := by
  induction l with
  | nil => simp [insertProvisional]
  | cons a l ih =>
    unfold insertProvisional
    split
    · simp
    · simp [ih]; tauto
/-- The provisional faults with one code. -/
theorem mem_ofCode (i : Intake) (code) (x) : x ∈ i.ofCode code ↔ x ∈ i.provisionals ∧ x.code = code := by
  unfold Intake.ofCode
  have : ∀ l : List Provisional, x ∈ l.foldr insertProvisional [] ↔ x ∈ l := by
    intro l; induction l with
    | nil => simp
    | cons a l ih => rw [List.foldr_cons, mem_insertProvisional, ih]; simp
  rw [this, List.mem_filter]; simp

end Sys2Proof.Machine
end

