-- ==== Sys2Proof/Laws/Due.lean ====
section
/-! SUPPORT. What is due is what arises: each test of Machine/ for an event of the part's own, in the terms of
State.Arises. -/

namespace Sys2Proof.Machine

theorem mem_whenHolds {b : Bool} {i c : Instr} : c ∈ whenHolds b i ↔ b = true ∧ c = i := by
  unfold whenHolds
  cases b <;> simp

theorem reached_iff (s : State) (since : Option Stamp) (n : Nat) :
    reached s.time since n = true ↔ s.HasRun since n := by
  unfold reached State.HasRun elapsed
  cases since <;> simp only [Bool.false_eq_true, decide_eq_true_eq, Option.some.injEq, exists_eq_left',
    reduceCtorEq, false_and, exists_false]

theorem answerDue_iff (s : State) : s.answerDue = true ↔ s.Arises .answerReady := by
  unfold State.answerDue State.Arises elapsed Config.answerMicros
  cases h : s.port.state with
  | early a b => cases b <;> simp [- BitVec.toNat_sub]
  | preparing a => simp [- BitVec.toNat_sub]
  | _ => simp

theorem silenceDue_iff (s : State) (ch : Chan) : s.silenceDue ch = true ↔ s.Arises (.silenceDetected ch) := by
  unfold State.silenceDue State.Arises
  rw [Bool.and_eq_true, beq_iff_eq, reached_iff]

theorem boundaryDue_iff (s : State) : s.boundaryDue = true ↔ s.Arises .downlinkBoundary := by
  unfold State.boundaryDue State.Arises Config.downlinkMicros elapsed
  exact decide_eq_true_iff

theorem windowDue_iff (s : State) (p : Pos) : s.windowDue p = true ↔ s.Arises (.windowExpiry p) := by
  unfold State.windowDue State.Arises State.windowRun elapsed
  simp only [List.any_eq_true, Bool.and_eq_true, List.all_eq_true, decide_eq_true_eq, beq_iff_eq,
    Bool.not_eq_true', Bool.and_eq_false_imp, and_assoc, and_imp]

theorem groupDue_iff (s : State) (code : Eligible) : s.groupDue code = true ↔ s.Arises (.groupClose code) := by
  have hfind : ∀ g, s.intake.groupOf code = some g ↔
      ∃ l l', s.intake.groups = l ++ g :: l' ∧ g.code = code ∧ ∀ x ∈ l, x.code ≠ code := by
    intro g
    unfold Intake.groupOf
    rw [List.find?_eq_some_iff_append]
    simp only [beq_iff_eq, Bool.not_eq_true', beq_eq_false_iff_ne, ne_eq]
    exact ⟨fun ⟨a, l, l', b, c⟩ => ⟨l, l', b, a, c⟩, fun ⟨l, l', b, a, c⟩ => ⟨a, l, l', b, c⟩⟩
  unfold State.groupDue State.Arises elapsed
  cases h : s.intake.groupOf code with
  | none =>
    simp only [Bool.false_eq_true, false_iff]
    rintro ⟨g, l, l', a, b, c, -⟩
    rw [(hfind g).mpr ⟨l, l', a, b, c⟩] at h
    cases h
  | some g =>
    simp only [decide_eq_true_eq]
    constructor
    · intro hx
      obtain ⟨l, l', a, b, c⟩ := (hfind g).mp h
      exact ⟨g, l, l', a, b, c, hx⟩
    · rintro ⟨g', l, l', a, b, c, hx⟩
      rw [(hfind g').mpr ⟨l, l', a, b, c⟩] at h
      cases h
      exact hx

theorem dwellDue_iff (s : State) : s.dwellDue = true ↔ s.HasRun s.matrix.dwell 1000 := reached_iff _ _ _

theorem holdOffDue_iff (s : State) (p : Pos) : s.holdOffDue p = true ↔ s.Arises (.holdOffExpiry p) := by
  unfold State.holdOffDue State.Arises elapsed millis
  simp only [List.any_eq_true, Bool.and_eq_true, decide_eq_true_eq, beq_iff_eq,
    Bool.not_eq_true', and_assoc, Nat.mul_comm]

theorem grantDue_iff (s : State) : s.grantDue = true ↔ s.Arises .entryGrant := by
  unfold State.grantDue State.Arises State.nextEligible
  rw [Bool.and_eq_true, beq_iff_eq, List.find?_isSome]
  refine and_congr_right fun _ => exists_congr fun e => and_congr_right fun _ => ?_
  unfold Entry.eligible
  cases e.kind <;> cases e.hold <;> cases e.holdOff <;> cases e.holdOffRun <;> simp

theorem pulseDue_iff (s : State) : s.pulseDue = true ↔ s.Arises .pulseEnd := by
  unfold State.pulseDue State.Arises elapsed millis
  rw [Nat.mul_comm s.params.tFW]
  cases s.matrix.unit <;> simp [- BitVec.toNat_sub]

theorem closeTimeoutDue_iff (s : State) : s.timeoutDue .toClose = true ↔ s.Arises .closeTimeout := by
  unfold State.timeoutDue State.Arises elapsed millis
  rw [Nat.mul_comm s.params.tBC]
  cases s.matrix.unit with
  | settling p k e r => cases k <;> simp [- BitVec.toNat_sub]
  | _ => simp

theorem openTimeoutDue_iff (s : State) : s.timeoutDue .toOpen = true ↔ s.Arises .openTimeout := by
  unfold State.timeoutDue State.Arises elapsed millis
  rw [Nat.mul_comm s.params.tBC]
  cases s.matrix.unit with
  | settling p k e r => cases k <;> simp [- BitVec.toNat_sub]
  | _ => simp

theorem recoveryDue_iff (s : State) : s.recoveryDue = true ↔ s.Arises .recoveryEnd := by
  unfold State.recoveryDue State.Arises elapsed millis
  rw [Nat.mul_comm s.params.tREC]
  cases s.matrix.unit with
  | settling p k e r => cases r <;> simp [- BitVec.toNat_sub]
  | _ => simp [- BitVec.toNat_sub]

theorem brakeWaitDue_iff (s : State) : s.brakeWaitDue = true ↔ s.Arises .brakeWaitExpiry := by
  unfold State.brakeWaitDue State.Arises millis
  rw [Nat.mul_comm s.params.tBRK, Bool.and_eq_true, Bool.and_eq_true, beq_iff_eq, reached_iff,
    Bool.not_eq_true', and_assoc, and_comm (b := s.brakeSet = false)]
  rfl

theorem graceDue_iff (s : State) : s.graceDue = true ↔ s.Arises .graceExpiry := by
  unfold State.graceDue State.Arises
  rw [Nat.mul_comm s.params.tWAKE, Bool.and_eq_true, beq_iff_eq, reached_iff]

theorem frameDue_iff (s : State) : s.frameDue = true ↔ s.Arises .setFrameSent := by
  unfold State.frameDue State.Arises elapsed
  cases s.publisher.sending <;> simp [- BitVec.toNat_sub]

theorem adoptDue_iff (s : State) : s.adoptDue = true ↔ s.Arises .adoptionDeadlineExpiry := by
  unfold State.adoptDue State.Arises millis
  rw [Nat.mul_comm s.params.tADOPT, Bool.and_eq_true, beq_iff_eq, reached_iff]

theorem minDue_iff (s : State) : s.minDue = true ↔ s.Arises .minimumTimerExpiry := by
  unfold State.minDue State.Arises millis
  rw [Nat.mul_comm s.params.tVMIN, Bool.and_eq_true, Bool.and_eq_true, beq_iff_eq, reached_iff,
    Bool.not_eq_true', and_assoc]

theorem verDue_iff (s : State) : s.verDue = true ↔ s.Arises .verificationDeadlineExpiry := by
  unfold State.verDue State.Arises millis
  rw [Nat.mul_comm s.params.tVER, Bool.and_eq_true, beq_iff_eq, reached_iff]

theorem provingDue_iff (s : State) : s.provingDue = true ↔ s.Arises .provingDeadlineExpiry := by
  unfold State.provingDue State.Arises
  rw [Nat.mul_comm s.params.tPRV, Bool.and_eq_true, beq_iff_eq, reached_iff]

theorem cleanSecondDue_iff (s : State) : s.cleanSecondDue = true ↔ s.Arises .cleanRunSecond := by
  unfold State.cleanSecondDue State.Arises Config.secondMicros
  cases s.engine.cleanRun <;> simp

theorem cleanEndDue_iff (s : State) : s.cleanEndDue = true ↔ s.Arises .cleanRunEnd := by
  unfold State.cleanEndDue State.Arises
  cases s.engine.cleanRun <;> simp

theorem secondDue_iff (s : State) : s.secondDue = true ↔ s.Arises .runningTimeSecond := by
  unfold State.secondDue State.Arises Config.secondMicros
  exact decide_eq_true_iff

theorem probationDue_iff (s : State) (p : Pos) : s.probationDue p = true ↔ s.Arises (.probationComplete p) := by
  unfold State.probationDue State.Arises
  rw [Bool.and_eq_true, beq_iff_eq, beq_iff_eq]

theorem edgeDue_iff (l : Line) (b : Bool) : (l.edgeDue == some b) = true ↔ l.Edges b := by
  unfold Line.edgeDue Line.Edges Config.qualifySamples
  split
  · rename_i h
    simp only [beq_iff_eq, Option.some.injEq, h, true_and]
    cases b <;> cases l.sample <;> simp
  · rename_i h
    simp only [beq_iff_eq, reduceCtorEq, false_iff]
    rintro ⟨h1, h2, h3⟩
    exact h ⟨h1, by rw [h2, h3]⟩

end Sys2Proof.Machine
end

