-- ==== Sys2Proof/Laws/PerInstr.lean ====
section
/-! SUPPORT. One family of statements made per command, about the command as syntax: the frame of a
request (R173, R174, R201). -/

namespace Sys2Proof.Laws

open Sys2Proof.Machine

/-- The frame that carries a request is at most 14 bytes before its CRC, and its third byte is the number of
bytes after it (R173, R174); a command that is no request has no frame. -/
def Framed.Statement (i : Instr) : Prop :=
  ∀ (resetTag : Byte) (bytes : List Byte), Instr.requestBytes resetTag i = some bytes →
    3 ≤ bytes.length ∧ bytes.length ≤ 14 ∧ bytes[2]? = some (byteOf (bytes.length - 3))

/-- A frame given byte by byte. -/
theorem framed_of {i : Instr} (f : Byte → List Byte) (h : ∀ tag, Instr.requestBytes tag i = some (f tag))
    (hl : ∀ tag, 3 ≤ (f tag).length ∧ (f tag).length ≤ 14 ∧ (f tag)[2]? = some (byteOf ((f tag).length - 3))) :
    Framed.Statement i := by
  intro tag bytes hb
  rw [h tag] at hb
  cases hb
  exact hl tag

/-- A command without a frame. -/
theorem framed_none {i : Instr} (h : ∀ tag, Instr.requestBytes tag i = none) : Framed.Statement i := by
  intro tag bytes hb
  rw [h tag] at hb
  cases hb

theorem Framed.nop (tag : Byte) : Framed.Statement (.nop tag) :=
  framed_of _ (fun _ => rfl) fun _ => by simp [byteOf]

theorem Framed.lookup (tag : Byte) (position : Byte) : Framed.Statement (.lookup tag position) :=
  framed_of _ (fun _ => rfl) fun _ => by simp [byteOf]

theorem Framed.findChannel (tag : Byte) (channel : Byte) : Framed.Statement (.findChannel tag channel) :=
  framed_of _ (fun _ => rfl) fun _ => by simp [byteOf]

theorem Framed.findSerial (tag : Byte) (serial : BitVec 32) : Framed.Statement (.findSerial tag serial) :=
  framed_of _ (fun _ => rfl) fun _ => by simp [bytes4, byteOf]

theorem Framed.list (tag : Byte) (stateCode : Byte) : Framed.Statement (.list tag stateCode) :=
  framed_of _ (fun _ => rfl) fun _ => by simp [byteOf]

theorem Framed.linkStatus (tag : Byte) (channel : Byte) : Framed.Statement (.linkStatus tag channel) :=
  framed_of _ (fun _ => rfl) fun _ => by simp [byteOf]

theorem Framed.enrol (tag : Byte) (position : Byte) (channel : Byte) (serial : BitVec 32) (tally : Byte) : Framed.Statement (.enrol tag position channel serial tally) :=
  framed_of _ (fun _ => rfl) fun _ => by simp [bytes4, byteOf]

theorem Framed.retire (tag : Byte) (position : Byte) : Framed.Statement (.retire tag position) :=
  framed_of _ (fun _ => rfl) fun _ => by simp [byteOf]

theorem Framed.readmit (tag : Byte) (position : Byte) : Framed.Statement (.readmit tag position) :=
  framed_of _ (fun _ => rfl) fun _ => by simp [byteOf]

theorem Framed.clearTally (tag : Byte) (kind : Byte) (index : Byte) : Framed.Statement (.clearTally tag kind index) :=
  framed_of _ (fun _ => rfl) fun _ => by simp [byteOf]

theorem Framed.setParam (tag : Byte) (number : Byte) (value : BitVec 32) : Framed.Statement (.setParam tag number value) :=
  framed_of _ (fun _ => rfl) fun _ => by simp [bytes4, byteOf]

theorem Framed.getParam (tag : Byte) (number : Byte) : Framed.Statement (.getParam tag number) :=
  framed_of _ (fun _ => rfl) fun _ => by simp [byteOf]

theorem Framed.start (tag : Byte) : Framed.Statement (.start tag) :=
  framed_of _ (fun _ => rfl) fun _ => by simp [byteOf]

theorem Framed.loadShift (tag : Byte) (h : Byte) (i : Byte) (j : Byte) (hi : BitVec 16) (ij : BitVec 16) (jh : BitVec 16) (fsh : BitVec 16) : Framed.Statement (.loadShift tag h i j hi ij jh fsh) :=
  framed_of _ (fun _ => rfl) fun _ => by simp [bytes2, byteOf]

theorem Framed.dropShift (tag : Byte) (h : Byte) (i : Byte) (j : Byte) : Framed.Statement (.dropShift tag h i j) :=
  framed_of _ (fun _ => rfl) fun _ => by simp [byteOf]

theorem Framed.readShift (tag : Byte) (selector : Byte) (a : Byte) (b : Byte) (c : Byte) : Framed.Statement (.readShift tag selector a b c) :=
  framed_of _ (fun _ => rfl) fun _ => by simp [byteOf]

theorem Framed.loadScale (tag : Byte) (attempt : Byte) (direction : Byte) (ramp : Byte) (proving : Byte) : Framed.Statement (.loadScale tag attempt direction ramp proving) :=
  framed_of _ (fun _ => rfl) fun _ => by simp [byteOf]

theorem Framed.readScale (tag : Byte) (attempt : Byte) (direction : Byte) : Framed.Statement (.readScale tag attempt direction) :=
  framed_of _ (fun _ => rfl) fun _ => by simp [byteOf]

theorem Framed.summary (tag : Byte) : Framed.Statement (.summary tag) :=
  framed_of _ (fun _ => rfl) fun _ => by simp [byteOf]

theorem Framed.clearLockout (tag : Byte) : Framed.Statement (.clearLockout tag) :=
  framed_of _ (fun _ => rfl) fun _ => by simp [byteOf]

theorem Framed.ack (tag : Byte) (flags : Byte) : Framed.Statement (.ack tag flags) :=
  framed_of _ (fun _ => rfl) fun _ => by simp [byteOf]

theorem Framed.setMask (tag : Byte) (enables : Byte) : Framed.Statement (.setMask tag enables) :=
  framed_of _ (fun _ => rfl) fun _ => by simp [byteOf]

theorem Framed.readCause (tag : Byte) : Framed.Statement (.readCause tag) :=
  framed_of _ (fun _ => rfl) fun _ => by simp [byteOf]

theorem Framed.reset : Framed.Statement (.reset) :=
  framed_of _ (fun _ => rfl) fun _ => by simp [byteOf]

theorem Framed.transactionBegin : Framed.Statement (.transactionBegin) := framed_none fun _ => rfl

theorem Framed.transactionEnd (mosi : List Bool) : Framed.Statement (.transactionEnd mosi) := framed_none fun _ => rfl

theorem Framed.answerReady : Framed.Statement (.answerReady) := framed_none fun _ => rfl

theorem Framed.powerOnReset : Framed.Statement (.powerOnReset) := framed_none fun _ => rfl

theorem Framed.pinReset : Framed.Statement (.pinReset) := framed_none fun _ => rfl

theorem Framed.resetEnd : Framed.Statement (.resetEnd) := framed_none fun _ => rfl

theorem Framed.uplinkFrame (channel : Chan) (b0 : Byte) (b1 : Byte) (b2 : Byte) (b3 : Byte) (b4 : Byte) : Framed.Statement (.uplinkFrame channel b0 b1 b2 b3 b4) := framed_none fun _ => rfl

theorem Framed.badFrame (channel : Chan) (kind : BadKind) : Framed.Statement (.badFrame channel kind) := framed_none fun _ => rfl

theorem Framed.silenceDetected (channel : Chan) : Framed.Statement (.silenceDetected channel) := framed_none fun _ => rfl

theorem Framed.downlinkBoundary : Framed.Statement (.downlinkBoundary) := framed_none fun _ => rfl

theorem Framed.windowExpiry (position : Pos) : Framed.Statement (.windowExpiry position) := framed_none fun _ => rfl

theorem Framed.groupClose (code : Eligible) : Framed.Statement (.groupClose code) := framed_none fun _ => rfl

theorem Framed.scanDwellEnd (senseA : Bool) (senseB : Bool) (senseC : Bool) : Framed.Statement (.scanDwellEnd senseA senseB senseC) := framed_none fun _ => rfl

theorem Framed.holdOffExpiry (position : Pos) : Framed.Statement (.holdOffExpiry position) := framed_none fun _ => rfl

theorem Framed.entryGrant : Framed.Statement (.entryGrant) := framed_none fun _ => rfl

theorem Framed.pulseEnd : Framed.Statement (.pulseEnd) := framed_none fun _ => rfl

theorem Framed.closeTimeout : Framed.Statement (.closeTimeout) := framed_none fun _ => rfl

theorem Framed.openTimeout : Framed.Statement (.openTimeout) := framed_none fun _ => rfl

theorem Framed.recoveryEnd : Framed.Statement (.recoveryEnd) := framed_none fun _ => rfl

theorem Framed.energizedRising : Framed.Statement (.energizedRising) := framed_none fun _ => rfl

theorem Framed.energizedFalling : Framed.Statement (.energizedFalling) := framed_none fun _ => rfl

theorem Framed.estopNFalling : Framed.Statement (.estopNFalling) := framed_none fun _ => rfl

theorem Framed.brakeSetRising : Framed.Statement (.brakeSetRising) := framed_none fun _ => rfl

theorem Framed.brakeWaitExpiry : Framed.Statement (.brakeWaitExpiry) := framed_none fun _ => rfl

theorem Framed.graceExpiry : Framed.Statement (.graceExpiry) := framed_none fun _ => rfl

theorem Framed.setFrameSent : Framed.Statement (.setFrameSent) := framed_none fun _ => rfl

theorem Framed.adoptionFrame (generation : BitVec 16) : Framed.Statement (.adoptionFrame generation) := framed_none fun _ => rfl

theorem Framed.adoptionDeadlineExpiry : Framed.Statement (.adoptionDeadlineExpiry) := framed_none fun _ => rfl

theorem Framed.minimumTimerExpiry : Framed.Statement (.minimumTimerExpiry) := framed_none fun _ => rfl

theorem Framed.verificationDeadlineExpiry : Framed.Statement (.verificationDeadlineExpiry) := framed_none fun _ => rfl

theorem Framed.provenRising : Framed.Statement (.provenRising) := framed_none fun _ => rfl

theorem Framed.provingDeadlineExpiry : Framed.Statement (.provingDeadlineExpiry) := framed_none fun _ => rfl

theorem Framed.cleanRunSecond : Framed.Statement (.cleanRunSecond) := framed_none fun _ => rfl

theorem Framed.cleanRunEnd : Framed.Statement (.cleanRunEnd) := framed_none fun _ => rfl

theorem Framed.runningTimeSecond : Framed.Statement (.runningTimeSecond) := framed_none fun _ => rfl

theorem Framed.probationComplete (position : Pos) : Framed.Statement (.probationComplete position) := framed_none fun _ => rfl

theorem Framed.uplinkWord (channel : Chan) (word : BitVec 12) : Framed.Statement (.uplinkWord channel word) := framed_none fun _ => rfl

theorem Framed.adoptionWord (word : BitVec 10) (afterIdle : Bool) : Framed.Statement (.adoptionWord word afterIdle) := framed_none fun _ => rfl

theorem Framed.brakeSetFalling : Framed.Statement (.brakeSetFalling) := framed_none fun _ => rfl

theorem Framed.supplyLoss : Framed.Statement (.supplyLoss) := framed_none fun _ => rfl

end Sys2Proof.Laws
end

