-- ==== Sys2Proof/Laws/Switch.lean ====
section
/-! SUPPORT. What the operations do to the switch order list and the firing unit, said once for each: but for the
grant of a pulse and the end of a hold-off, every operation keeps the laws of R75, carries each CLOSE entry on or
lists it with the stamp and the cause of its record, and starts no pulse. -/

namespace Sys2Proof.Machine

/-! ## The laws, and the positions they leave free -/

/-- The part runs and keeps the laws of its switches. -/
structure State.Lawful (s : State) : Prop where
  running : s.mode = .running
  switched : s.Switched

/-- No entry is listed for a position and no pulse stands for it. -/
structure State.Free (s : State) (p : Pos) : Prop where
  entry : ∀ e ∈ s.matrix.orders, e.pos ≠ p
  pulse : ∀ kind, s.matrix.unit.target ≠ some (p, kind)

/-- A record that is neither waiting to be closed nor CLOSING nor OPENING has no entry and no pulse. -/
theorem State.Switched.free {s : State} {p : Pos} (h : s.Switched)
    (hf : (s.record p).state = .faulted → (s.record p).closeFailed = true)
    (hc : (s.record p).state ≠ .closing) (ho : (s.record p).state ≠ .opening) : s.Free p := by
  constructor
  · rintro e he rfl
    cases hk : e.kind with
    | toClose =>
      obtain ⟨h1, h2⟩ := h.closeEntry e he hk
      rw [hf h1] at h2
      cases h2
    | toOpen => exact ho (h.openEntry e he hk)
  · intro kind ht
    cases kind with
    | toClose => exact hc (h.closePulse p ht)
    | toOpen => exact ho (h.openPulse p ht)

theorem State.Switched.free_config {s : State} (h : s.Switched) (hc : s.engine.state = .config) (p : Pos) :
    s.Free p := by
  obtain ⟨h1, h2⟩ := h.config hc
  constructor
  · rw [h1]
    rintro e he
    cases he
  · rw [h2]
    rintro kind hk
    cases hk

theorem State.Switched.free_active {s : State} {p : Pos} (h : s.Switched)
    (ha : (s.record p).state.active = true) : s.Free p := by
  refine h.free ?_ ?_ ?_ <;> intro hs <;> rw [hs] at ha <;> cases ha

/-- A close-failed mark and a prior state stand in FAULTED alone. -/
theorem State.Switched.unmarked {s : State} {p : Pos} (h : s.Switched) (hs : (s.record p).state ≠ .faulted) :
    (s.record p).closeFailed = false ∧ (s.record p).prior = none := by
  constructor
  · cases hm : (s.record p).closeFailed with
    | false => rfl
    | true => exact absurd (h.mark p hm).1 hs
  · cases hm : (s.record p).prior with
    | none => rfl
    | some x => exact absurd (h.prior p (by rw [hm]; rfl)) hs

/-! ## What is carried from one state to the next -/

/-- A CLOSE entry holds its record's stamp, and the hold-off mark exactly for an eligible cause (R76). -/
structure State.Ties (s : State) (e : Entry) : Prop where
  stamp : (s.record e.pos).stamp = some e.stamp
  mark : e.holdOff = true ↔ ∃ cause, (s.record e.pos).cause = some cause ∧
    (cause = .dcOver ∨ cause = .dcUnder ∨ cause = .overtemp)

/-- Entry x of s is entry e of t: its hold alone may differ, and its record keeps stamp and cause. -/
structure State.Same (s t : State) (x e : Entry) : Prop where
  pos : x.pos = e.pos
  kind : x.kind = e.kind
  stamp : x.stamp = e.stamp
  mark : x.holdOff = e.holdOff
  run : e.holdOffRun = true → x.holdOffRun = true
  recordStamp : (t.record e.pos).stamp = (s.record e.pos).stamp
  recordCause : (t.record e.pos).cause = (s.record e.pos).cause

/-- From s to t each CLOSE entry is carried on, or listed with its record's stamp and cause, or relisted at one
of the positions `again`; no hold-off runs out. -/
def State.Lists (again : Pos → Prop) (s t : State) : Prop :=
  ∀ e ∈ t.matrix.orders, e.kind = .toClose →
    (∃ x ∈ s.matrix.orders, s.Same t x e) ∨ (e.holdOffRun = false ∧ t.Ties e) ∨
      (e.holdOffRun = false ∧ e.holdOff = false ∧ again e.pos)

/-- From s to t the laws are kept, the CLOSE entries stand as `State.Lists` says, and no pulse starts. -/
structure State.Carries (again : Pos → Prop) (s t : State) : Prop where
  lawful : t.Lawful
  entry : s.Lists again t
  pulse : ∀ p kind since, t.matrix.unit = .firing p kind since → s.matrix.unit = t.matrix.unit

/-- An operation that leads from s to t keeps the laws, and carries on. -/
def State.Kept (again : Pos → Prop) (s t : State) : Prop := s.Lawful → s.Carries again t

theorem State.Same.trans {s t u : State} {x y e : Entry} (h : s.Same t x y) (h' : t.Same u y e) :
    s.Same u x e where
  pos := h.pos.trans h'.pos
  kind := h.kind.trans h'.kind
  stamp := h.stamp.trans h'.stamp
  mark := h.mark.trans h'.mark
  run := fun hr => h.run (h'.run hr)
  recordStamp := by rw [h'.recordStamp, ← h'.pos, h.recordStamp]
  recordCause := by rw [h'.recordCause, ← h'.pos, h.recordCause]

theorem State.Same.unrun {s t : State} {x e : Entry} (h : s.Same t x e) (hx : x.holdOffRun = false) :
    e.holdOffRun = false := by
  cases he : e.holdOffRun with
  | false => rfl
  | true => rw [h.run he] at hx; cases hx

theorem State.Same.ties {s t : State} {x e : Entry} (h : s.Same t x e) (hx : s.Ties x) : t.Ties e := by
  refine ⟨?_, ?_⟩
  · rw [h.recordStamp, ← h.pos, hx.stamp, h.stamp]
  · rw [h.recordCause, ← h.pos, ← h.mark]
    exact hx.mark

variable {again : Pos → Prop}

theorem State.Kept.refl (s : State) : s.Kept again s := fun h =>
  ⟨h, fun e he _ => .inl ⟨e, he, ⟨rfl, rfl, rfl, rfl, id, rfl, rfl⟩⟩, fun _ _ _ _ => rfl⟩

theorem State.Kept.next {s t u : State} (h : s.Kept again t) (h' : t.Kept again u) : s.Kept again u := by
  intro hs
  have h1 := h hs
  have h2 := h' h1.lawful
  refine ⟨h2.lawful, fun e he hk => ?_, fun p kind since hu => ?_⟩
  · rcases h2.entry e he hk with ⟨y, hy, hye⟩ | hf | hf
    · rcases h1.entry y hy (hye.kind.trans hk) with ⟨x, hx, hxy⟩ | ⟨hr, ht⟩ | ⟨hr, hm, ha⟩
      · exact .inl ⟨x, hx, hxy.trans hye⟩
      · exact .inr (.inl ⟨hye.unrun hr, hye.ties ht⟩)
      · exact .inr (.inr ⟨hye.unrun hr, by rw [← hye.mark, hm], hye.pos ▸ ha⟩)
    · exact .inr (.inl hf)
    · exact .inr (.inr hf)
  · have e2 := h2.pulse p kind since hu
    rw [← e2]
    exact h1.pulse p kind since (e2.trans hu)

/-- A step that is taken on a lawful state alone. -/
theorem State.Kept.given {s t : State} (h : s.Lawful → s.Kept again t) : s.Kept again t := fun hs => h hs hs

theorem State.Kept.same {s t : State} (h : t = s) : s.Kept again t := by
  rw [h]
  exact State.Kept.refl s

theorem State.Kept.foldlWith {α : Type} {Q : State → Prop} (f : State → α → State) (l : List α)
    (hf : ∀ s, ∀ x ∈ l, Q s → s.Kept again (f s x) ∧ Q (f s x)) (s : State) (hs : Q s) :
    s.Kept again (l.foldl f s) := by
  induction l generalizing s with
  | nil => exact State.Kept.refl s
  | cons x xs ih =>
    obtain ⟨h1, h2⟩ := hf s x (List.mem_cons_self ..) hs
    exact h1.next (ih (fun s y hy => hf s y (List.mem_cons_of_mem _ hy)) _ h2)

theorem State.Kept.foldl {α : Type} (f : State → α → State) (hf : ∀ (t : State) x, t.Kept again (f t x)) (l : List α)
    (s : State) : s.Kept again (l.foldl f s) :=
  State.Kept.foldlWith (Q := fun _ : State => True) f l (fun t x _ _ => ⟨hf t x, trivial⟩) s trivial

/-! ## Elementary changes -/

/-- What a record may become: it keeps what its entry and pulse rest on, or it has neither, and holds a
close-failed mark or a prior state in FAULTED alone. -/
def State.RecordKept (s : State) (p : Pos) (r : Record) : Prop :=
  (r.state = (s.record p).state ∧ r.closeFailed = (s.record p).closeFailed ∧
    (r.prior = (s.record p).prior ∨ r.prior = none) ∧ r.stamp = (s.record p).stamp ∧
    r.cause = (s.record p).cause) ∨
  (s.Free p ∧ (r.closeFailed = true → r.state = .faulted ∧ r.prior = none) ∧
    (r.prior.isSome → r.state = .faulted))

theorem State.RecordKept.rfl' (s : State) (p : Pos) : s.RecordKept p (s.record p) :=
  .inl ⟨rfl, rfl, .inl rfl, rfl, rfl⟩

/-- Records change, and the engine's state to another than CONFIG; list and unit stay. -/
theorem State.Kept.view {s t : State} (hm : t.mode = s.mode)
    (he : t.engine.state = s.engine.state ∨ t.engine.state ≠ .config)
    (ho : t.matrix.orders = s.matrix.orders) (hu : t.matrix.unit = s.matrix.unit)
    (hd : t.matrix.dwell = s.matrix.dwell) (hr : s.Lawful → ∀ p, s.RecordKept p (t.record p)) :
    s.Kept again t := by
  intro h
  have hr := hr h
  have hw := h.switched
  have hstate : ∀ p, ¬s.Free p → (t.record p).state = (s.record p).state ∧
      (t.record p).closeFailed = (s.record p).closeFailed ∧ (t.record p).stamp = (s.record p).stamp ∧
      (t.record p).cause = (s.record p).cause := fun p hp => by
    rcases hr p with ⟨h1, h2, -, h4, h5⟩ | h1
    · exact ⟨h1, h2, h4, h5⟩
    · exact absurd h1.1 hp
  have hlist : ∀ e ∈ s.matrix.orders, ¬s.Free e.pos := fun e hx hf => hf.entry e hx rfl
  have hpulse : ∀ p kind, s.matrix.unit.target = some (p, kind) → ¬s.Free p := fun p kind hx hf =>
    hf.pulse kind hx
  refine ⟨⟨hm.trans h.running, ?_⟩, ?_, ?_⟩
  · constructor
    · rw [ho]; exact hw.alone
    · rw [ho]; exact hw.capacity
    · rw [ho]; intro e hx hk
      rw [(hstate _ (hlist e hx)).1, (hstate _ (hlist e hx)).2.1]
      exact hw.closeEntry e hx hk
    · rw [ho]; intro e hx hk
      rw [(hstate _ (hlist e hx)).1]
      exact hw.openEntry e hx hk
    · rw [hu]; intro p hx
      rw [(hstate _ (hpulse _ _ hx)).1]
      exact hw.closePulse p hx
    · rw [hu]; intro p hx
      rw [(hstate _ (hpulse _ _ hx)).1]
      exact hw.openPulse p hx
    · rw [ho, hu]; exact hw.pulseAlone
    · intro p hx
      rcases hr p with ⟨h1, h2, h3, -, -⟩ | h1
      · rw [h2] at hx
        obtain ⟨m1, m2⟩ := hw.mark p hx
        refine ⟨h1.trans m1, ?_⟩
        rcases h3 with h3 | h3
        · rw [h3, m2]
        · exact h3
      · exact h1.2.1 hx
    · intro p hx
      rcases hr p with ⟨h1, h2, h3, -, -⟩ | h1
      · rcases h3 with h3 | h3
        · rw [h3] at hx
          exact h1.trans (hw.prior p hx)
        · rw [h3] at hx
          cases hx
      · exact h1.2.2 hx
    · rw [hu, hd]; exact hw.scan
    · intro hc
      rw [ho, hu]
      rcases he with he | he
      · exact hw.config (he ▸ hc)
      · exact absurd hc he
    · intro hx
      exact absurd (hm.trans h.running) hx
  · unfold State.Lists
    rw [ho]
    intro e hx _
    obtain ⟨-, -, h3, h4⟩ := hstate _ (hlist e hx)
    exact .inl ⟨e, hx, ⟨rfl, rfl, rfl, rfl, id, h3, h4⟩⟩
  · intro _ _ _ _
    exact hu.symm

/-- Nothing that the laws read changes. -/
theorem State.Kept.aside {s t : State} (hm : t.mode = s.mode) (hr : t.roster = s.roster)
    (he : t.engine.state = s.engine.state ∨ t.engine.state ≠ .config) (hx : t.matrix = s.matrix) :
    s.Kept again t :=
  State.Kept.view hm he (by rw [hx]) (by rw [hx]) (by rw [hx])
    fun _ p => by rw [State.record_congr hr]; exact .rfl' s p

theorem setEngine_keeps (s : State) (e : Engine) (h : e.state = s.engine.state) :
    s.Kept again (s.setEngine e) := State.Kept.aside rfl rfl (.inl h) rfl

theorem setFlag_keeps (s : State) (f : Flag) : s.Kept again (s.setFlag f) := State.Kept.aside rfl rfl (.inl rfl) rfl

theorem setPort_keeps (s : State) (p : Port) : s.Kept again (s.setPort p) := State.Kept.aside rfl rfl (.inl rfl) rfl

theorem setPublisher_keeps (s : State) (p : Publisher) : s.Kept again (s.setPublisher p) :=
  State.Kept.aside rfl rfl (.inl rfl) rfl

theorem setIntake_keeps (s : State) (i : Intake) : s.Kept again (s.setIntake i) :=
  State.Kept.aside rfl rfl (.inl rfl) rfl

theorem setLink_keeps (s : State) (ch : Chan) (l : Link) : s.Kept again (s.setLink ch l) :=
  State.Kept.aside rfl rfl (.inl rfl) rfl

theorem answered_keeps (s : State) (tag : Byte) (r : Reply) : s.Kept again (s.answered tag r) :=
  State.Kept.aside rfl rfl (.inl rfl) rfl

/-- One record changes. -/
theorem setRecord_keeps {s : State} {p : Pos} {r : Record} (h : s.Lawful → s.RecordKept p r) :
    s.Kept again (s.setRecord p r) :=
  State.Kept.view rfl (.inl rfl) rfl rfl rfl fun hs q => by
    rw [State.record_setRecord]
    split
    · rename_i hq
      subst hq
      exact h hs
    · exact .rfl' s q

/-- Every record changes. -/
theorem mapRecords_keeps {s : State} {f : Pos → Record → Record}
    (h : s.Lawful → ∀ p, s.RecordKept p (f p (s.record p))) : s.Kept again (s.mapRecords f) := by
  have hm : (s.mapRecords f).matrix = s.matrix := State.mapRecords_matrix s f
  refine State.Kept.view (State.mapRecords_mode s f) (.inl ?_) ?_ ?_ ?_ fun hs p => ?_
  · rw [State.mapRecords_engine]
  · rw [hm]
  · rw [hm]
  · rw [hm]
  · rw [State.record_mapRecords]
    exact h hs p

theorem clearRun_keeps (s : State) (p : Pos) : s.Kept again (s.clearRun p) :=
  setRecord_keeps fun _ => .inl ⟨rfl, rfl, .inl rfl, rfl, rfl⟩

/-- Positions that differ are at most 30. -/
theorem Entry.capacity {l : List Entry} (h : l.Pairwise fun a b => a.pos ≠ b.pos) : l.length ≤ 30 := by
  have h1 : (l.map fun e => e.pos).Nodup := List.pairwise_map.mpr h
  have h2 := List.Nodup.length_le_card h1
  rwa [List.length_map, Fintype.card_fin] at h2

theorem Entry.alone {l : List Entry} (h : l.Pairwise fun a b => a.pos ≠ b.pos) {x y : Entry} (hx : x ∈ l)
    (hy : y ∈ l) (hp : x.pos = y.pos) : x = y := by
  induction l with
  | nil => cases hx
  | cons z l ih =>
    obtain ⟨h1, h2⟩ := List.pairwise_cons.mp h
    rcases List.mem_cons.mp hx with rfl | hxl <;> rcases List.mem_cons.mp hy with rfl | hyl
    · rfl
    · exact absurd hp (h1 y hyl)
    · exact absurd hp.symm (h1 x hxl)
    · exact ih h2 hxl hyl

/-- Entries leave the list or change in their marks: no position and no kind is new. -/
theorem setOrders_lawful {s : State} {l : List Entry} (h : s.Lawful)
    (hl : l.Pairwise fun a b => a.pos ≠ b.pos)
    (he : ∀ e ∈ l, ∃ x ∈ s.matrix.orders, x.pos = e.pos ∧ x.kind = e.kind) : (s.setOrders l).Lawful := by
  have hw := h.switched
  refine ⟨h.running, hl, Entry.capacity hl, ?_, ?_, hw.closePulse, hw.openPulse, ?_, hw.mark, hw.prior, hw.scan,
    ?_, fun hx => absurd h.running hx⟩
  · intro e hx hk
    obtain ⟨x, h1, h2, h3⟩ := he e hx
    rw [← h2]
    exact hw.closeEntry x h1 (h3.trans hk)
  · intro e hx hk
    obtain ⟨x, h1, h2, h3⟩ := he e hx
    rw [← h2]
    exact hw.openEntry x h1 (h3.trans hk)
  · intro p kind hp e hx
    obtain ⟨x, h1, h2, -⟩ := he e hx
    rw [← h2]
    exact hw.pulseAlone p kind hp x h1
  · intro hc
    obtain ⟨h1, h2⟩ := hw.config hc
    refine ⟨?_, h2⟩
    cases l with
    | nil => rfl
    | cons e l =>
      obtain ⟨x, hx, -⟩ := he e (List.mem_cons_self ..)
      rw [h1] at hx
      cases hx

/-- Entries leave the list, or their hold changes. -/
theorem setOrders_keeps {s : State} {l : List Entry} (hl : s.Lawful → l.Pairwise fun a b => a.pos ≠ b.pos)
    (he : s.Lawful → ∀ e ∈ l, ∃ x ∈ s.matrix.orders, s.Same s x e) : s.Kept again (s.setOrders l) := by
  intro h
  refine ⟨setOrders_lawful h (hl h) fun e hx => ?_, fun e hx _ => ?_, fun _ _ _ _ => rfl⟩
  · obtain ⟨x, h1, h2⟩ := he h e hx
    exact ⟨x, h1, h2.pos, h2.kind⟩
  · obtain ⟨x, h1, h2⟩ := he h e hx
    exact .inl ⟨x, h1, ⟨h2.pos, h2.kind, h2.stamp, h2.mark, h2.run, rfl, rfl⟩⟩

/-- Entries leave the list. -/
theorem withoutEntries_keeps (s : State) (f : Entry → Bool) :
    s.Kept again (s.setOrders (s.matrix.orders.filter f)) :=
  setOrders_keeps (fun h => h.switched.alone.filter f)
    fun _ e he => ⟨e, List.mem_of_mem_filter he, ⟨rfl, rfl, rfl, rfl, id, rfl, rfl⟩⟩

theorem insertEntry_perm (e : Entry) (l : List Entry) : (insertEntry e l).Perm (e :: l) := by
  induction l with
  | nil => exact List.Perm.refl _
  | cons x rest ih =>
    unfold insertEntry
    split
    · exact List.Perm.refl _
    · exact (ih.cons x).trans (List.Perm.swap e x rest)

theorem mem_insertEntry {e x : Entry} {l : List Entry} : x ∈ insertEntry e l ↔ x = e ∨ x ∈ l := by
  rw [(insertEntry_perm e l).mem_iff, List.mem_cons]

/-- An entry is listed for a free position whose record stands in the matching state. -/
theorem listEntry_keeps {s : State} {e : Entry} (hf : s.Lawful → s.Free e.pos)
    (hc : s.engine.state ≠ .config)
    (hk : match e.kind with
      | .toClose => (s.record e.pos).state = .faulted ∧ (s.record e.pos).closeFailed = false ∧
          e.holdOffRun = false ∧ (s.Ties e ∨ (e.holdOff = false ∧ again e.pos))
      | .toOpen => (s.record e.pos).state = .opening) : s.Kept again (s.listEntry e) := by
  intro h
  have hf := hf h
  have hw := h.switched
  have hm : ∀ {x}, x ∈ insertEntry e s.matrix.orders ↔ x = e ∨ x ∈ s.matrix.orders := mem_insertEntry
  have ha : (insertEntry e s.matrix.orders).Pairwise fun a b => a.pos ≠ b.pos := by
    rw [(insertEntry_perm e s.matrix.orders).pairwise_iff fun hab => hab.symm, List.pairwise_cons]
    exact ⟨fun x hx => (hf.entry x hx).symm, hw.alone⟩
  refine ⟨⟨h.running, ha, Entry.capacity ha, ?_, ?_, hw.closePulse, hw.openPulse, ?_, hw.mark, hw.prior, hw.scan,
    fun hx => absurd hx hc, fun hx => absurd h.running hx⟩, ?_, fun _ _ _ _ => rfl⟩
  · intro x hx hkx
    rcases hm.mp hx with rfl | hx
    · rw [hkx] at hk
      exact ⟨hk.1, hk.2.1⟩
    · exact hw.closeEntry x hx hkx
  · intro x hx hkx
    rcases hm.mp hx with rfl | hx
    · rw [hkx] at hk
      exact hk
    · exact hw.openEntry x hx hkx
  · intro p kind hp x hx
    rcases hm.mp hx with rfl | hx
    · rintro rfl
      exact hf.pulse kind hp
    · exact hw.pulseAlone p kind hp x hx
  · intro x hx hkx
    rcases hm.mp hx with rfl | hx
    · rw [hkx] at hk
      rcases hk.2.2.2 with ht | ht
      · exact .inr (.inl ⟨hk.2.2.1, ⟨ht.stamp, ht.mark⟩⟩)
      · exact .inr (.inr ⟨hk.2.2.1, ht⟩)
    · exact .inl ⟨x, hx, ⟨rfl, rfl, rfl, rfl, id, rfl, rfl⟩⟩

/-- The unit's pulse goes on, or is over; none starts. -/
theorem setMatrix_keeps {s : State} {m : Matrix} (hc : s.Lawful → s.engine.state ≠ .config)
    (ho : m.orders = s.matrix.orders) (ht : m.unit.target = s.matrix.unit.target ∨ m.unit.target = none)
    (hu : ∀ p kind since, m.unit ≠ .firing p kind since) : s.Kept again (s.setMatrix m) := by
  intro h
  have hw := h.switched
  have hs : ∀ x, m.unit.target = some x → s.matrix.unit.target = some x := by
    intro x hx
    rcases ht with ht | ht
    · rw [← ht, hx]
    · rw [ht] at hx
      cases hx
  refine ⟨⟨h.running, ho ▸ hw.alone, ho ▸ hw.capacity, ?_, ?_, fun p hx => hw.closePulse p (hs _ hx),
    fun p hx => hw.openPulse p (hs _ hx), ?_, hw.mark, hw.prior, fun p kind since hx => absurd hx (hu p kind since),
    fun hx => absurd hx (hc h), fun hx => absurd h.running hx⟩, ?_,
    fun p kind since hx => absurd hx (hu p kind since)⟩
  · rw [State.setMatrix_matrix, ho]; exact hw.closeEntry
  · rw [State.setMatrix_matrix, ho]; exact hw.openEntry
  · rw [State.setMatrix_matrix, ho]; exact fun p kind hx => hw.pulseAlone p kind (hs _ hx)
  · unfold State.Lists
    rw [State.setMatrix_matrix, ho]
    exact fun e he _ => .inl ⟨e, he, ⟨rfl, rfl, rfl, rfl, id, rfl, rfl⟩⟩

theorem setUnit_keeps {s : State} {u : FiringUnit} (hc : s.Lawful → s.engine.state ≠ .config)
    (ht : u.target = s.matrix.unit.target ∨ u.target = none) (hu : ∀ p kind since, u ≠ .firing p kind since) :
    s.Kept again (s.setUnit u) := setMatrix_keeps hc rfl ht hu

/-- The scan goes on: the pointer, the dwell and the debounce states change, and no pulse is in flight. -/
theorem scan_keeps {s t : State} (hm : t.mode = s.mode) (hr : t.roster = s.roster) (he : t.engine = s.engine)
    (ho : t.matrix.orders = s.matrix.orders) (hu : t.matrix.unit = s.matrix.unit)
    (hd : t.matrix.dwell = s.matrix.dwell ∨ ∀ p kind since, s.matrix.unit ≠ .firing p kind since) :
    s.Kept again t := by
  intro h
  have hw := h.switched
  have hq : ∀ p, t.record p = s.record p := State.record_congr hr
  refine ⟨⟨hm.trans h.running, ?_⟩, ?_, fun _ _ _ _ => hu.symm⟩
  · constructor
    · rw [ho]; exact hw.alone
    · rw [ho]; exact hw.capacity
    · simp only [ho, hq]; exact hw.closeEntry
    · simp only [ho, hq]; exact hw.openEntry
    · simp only [hu, hq]; exact hw.closePulse
    · simp only [hu, hq]; exact hw.openPulse
    · simp only [hu, ho]; exact hw.pulseAlone
    · simp only [hq]; exact hw.mark
    · simp only [hq]; exact hw.prior
    · intro p kind since hx
      rw [hu] at hx
      rcases hd with hd | hd
      · rw [hd]; exact hw.scan p kind since hx
      · exact absurd hx (hd p kind since)
    · rw [he, ho, hu]; exact hw.config
    · intro hx
      exact absurd (hm.trans h.running) hx
  · unfold State.Lists
    rw [ho]
    exact fun e hx _ => .inl ⟨e, hx, ⟨rfl, rfl, rfl, rfl, id, by rw [hq], by rw [hq]⟩⟩

/-! ## Shared operations of the engine -/

theorem endPass_keeps (s : State) (o : PassOutcome) : s.Kept again (s.endPass o) := by
  unfold State.endPass
  split
  · exact setEngine_keeps s _ (by rfl)
  · exact State.Kept.refl s

/-- A CONTACT_OPEN is taken against a record out of service (R6, R76). -/
theorem applyContactOpen_keeps {s : State} {p : Pos} (t : Stamp) (hc : s.engine.state ≠ .config)
    (hs : (s.record p).state = .bypassed ∨ (s.record p).state = .quarantined) :
    s.Kept again (s.applyContactOpen p t) := by
  refine State.Kept.given fun h => ?_
  have hw := h.switched
  have hne : (s.record p).state ≠ .faulted := by rcases hs with a | a <;> rw [a] <;> nofun
  obtain ⟨h1, h2⟩ := hw.unmarked hne
  have hf : s.Free p := hw.free (fun a => absurd a hne) (by rcases hs with a | a <;> rw [a] <;> nofun)
    (by rcases hs with a | a <;> rw [a] <;> nofun)
  have hr : s.Kept again ((s.setRecord p ((s.record p).contactOpenTaken t)).setFlag .faultTaken) := by
    refine (setRecord_keeps fun _ => .inr ⟨hf, fun a => ?_, fun a => ?_⟩).next (setFlag_keeps _ _)
    · change (s.record p).closeFailed = true at a
      rw [h1] at a; cases a
    · change (s.record p).prior.isSome at a
      rw [h2] at a; cases a
  unfold State.applyContactOpen
  split
  · rename_i hb
    refine hr.next (listEntry_keeps (fun _ => ⟨hf.entry, hf.pulse⟩) hc ?_)
    dsimp only
    rw [State.setFlag_record, State.record_setRecord_same]
    refine ⟨if_pos hb, h1, rfl, .inl ⟨?_, ?_⟩⟩
    · rw [State.setFlag_record, State.record_setRecord_same]; rfl
    · rw [State.setFlag_record, State.record_setRecord_same]
      refine ⟨fun a => ?_, ?_⟩
      · cases a
      · rintro ⟨cause, hca, hcb⟩
        cases hca
        rcases hcb with a | a | a <;> cases a
  · exact hr

/-- The withdrawal of one waiting OPEN entry that has left the list (R14). -/
theorem openWithdrawn_keeps {s : State} {p : Pos} (hc : s.engine.state ≠ .config)
    (hf : s.Lawful → (s.record p).state = .opening → s.Free p) : s.Kept again (s.openWithdrawn p) := by
  have h1 : s.Kept again (s.setRecord p (s.record p).openEnded) := setRecord_keeps fun h => by
    unfold Record.openEnded
    split
    · rename_i ho
      obtain ⟨m1, m2⟩ := h.switched.unmarked (p := p) (by rw [ho]; nofun)
      refine .inr ⟨hf h ho, fun a => ?_, fun a => ?_⟩
      · change (s.record p).closeFailed = true at a
        rw [m1] at a; cases a
      · change (s.record p).prior.isSome at a
        rw [m2] at a; cases a
    · exact .rfl' s p
  unfold State.openWithdrawn
  split
  · rename_i ho
    refine h1.next (applyContactOpen_keeps _ hc (.inl ?_))
    rw [State.record_setRecord_same]
    unfold Record.openEnded
    rw [if_pos ho.1]
  · exact h1

theorem openWithdrawn_matrix (s : State) (p : Pos) :
    (s.openWithdrawn p).matrix.unit = s.matrix.unit ∧
    ∀ e ∈ (s.openWithdrawn p).matrix.orders, e ∈ s.matrix.orders ∨ e.kind = .toClose := by
  unfold State.openWithdrawn State.applyContactOpen
  dsimp only
  split
  · split
    · refine ⟨rfl, fun e he => ?_⟩
      rcases mem_insertEntry.mp he with rfl | he
      · exact .inr rfl
      · exact .inl he
    · exact ⟨rfl, fun e he => .inl he⟩
  · exact ⟨rfl, fun e he => .inl he⟩

/-- Every waiting OPEN entry is withdrawn (R78). -/
theorem withdrawOpens_keeps {s : State} (hc : s.engine.state ≠ .config) : s.Kept again s.withdrawOpens := by
  refine State.Kept.given fun h =>
    (withoutEntries_keeps s fun e => e.kind == .toClose).next ?_
  refine State.Kept.foldlWith (Q := fun t => t.engine.state ≠ .config ∧
    (∀ e ∈ t.matrix.orders, e.kind = .toClose) ∧ t.matrix.unit = s.matrix.unit)
    (fun t (e : Entry) => t.openWithdrawn e.pos) _ ?_ _ ⟨hc, ?_, rfl⟩
  · rintro t e he ⟨q1, q2, q3⟩
    obtain ⟨hm, -⟩ := List.mem_filter.mp he
    refine ⟨openWithdrawn_keeps q1 fun ht ho => ⟨fun x hx hp => ?_, fun kind hp => ?_⟩, ?_, ?_, ?_⟩
    · have h1 := (ht.switched.closeEntry x hx (q2 x hx)).1
      rw [hp, ho] at h1
      cases h1
    · rw [q3] at hp
      exact h.switched.pulseAlone e.pos kind hp e hm rfl
    · have hf : (t.openWithdrawn e.pos).engine = t.engine := openWithdrawn_frame t e.pos .engine (by decide)
      rw [hf]
      exact q1
    · intro x hx
      rcases (openWithdrawn_matrix t e.pos).2 x hx with hx | hx
      · exact q2 x hx
      · exact hx
    · rw [(openWithdrawn_matrix t e.pos).1, q3]
  · intro e he
    exact beq_iff_eq.mp (List.mem_filter.mp he).2

/-- A change of engine state (R93). -/
theorem changeState_keeps (s : State) (new : EngineState) (h : new ≠ .config) :
    s.Kept again (s.changeState new) := by
  have h1 : s.Kept again (((s.setEngine (s.engine.enter new)).setPublisher s.publisher.stopped).setFlag
      .stateChange) := State.Kept.aside rfl rfl (.inr h) rfl
  unfold State.changeState
  dsimp only
  split
  · exact h1.next (withdrawOpens_keeps h)
  · exact h1

/-- A lockout request (R113). -/
theorem lockout_keeps (s : State) (c : LockoutCause) : s.Kept again (s.lockout c) := by
  unfold State.lockout
  split
  · exact State.Kept.refl s
  · exact (((endPass_keeps s _).next (changeState_keeps _ _ (by nofun))).next (setEngine_keeps _ _ (by rfl))).next
      (setFlag_keeps _ _)

/-- The commit at the roster (R15). -/
theorem commitRoster_keeps (s : State) (parked : List Pos) : s.Kept again (s.commitRoster parked) :=
  mapRecords_keeps fun h p => by
    unfold Record.committed
    split
    · rename_i ha
      have hne : (s.record p).state ≠ .faulted := by intro a; rw [a] at ha; cases ha
      obtain ⟨m1, m2⟩ := h.switched.unmarked hne
      split
      · refine .inr ⟨h.switched.free_active ha, fun a => ?_, fun a => ?_⟩
        · change (s.record p).closeFailed = true at a
          rw [m1] at a; cases a
        · change (s.record p).prior.isSome at a
          rw [m2] at a; cases a
      · refine .inr ⟨h.switched.free_active ha, fun a => ?_, fun a => ?_⟩
        · change (s.record p).closeFailed = true at a
          rw [m1] at a; cases a
        · change (s.record p).prior.isSome at a
          rw [m2] at a; cases a
    · exact .rfl' s p

theorem setResult_keeps (s : State) (r : Option Result) : s.Kept again (s.setResult r) :=
  State.Kept.aside rfl rfl (.inl rfl) rfl

theorem runRebalance_keeps (s : State) (k : PassKind) : s.Kept again (s.runRebalance k) := by
  have ho : s.Kept again (s.openPass k) := setEngine_keeps s _ (by rfl)
  have hc : ∀ (t : State) r parked, t.Kept again (t.commit r parked) := fun t r parked =>
    (((commitRoster_keeps t parked).next (setResult_keeps _ _)).next (changeState_keeps _ _ (by nofun))).next
      (setPublisher_keeps _ _)
  unfold State.runRebalance
  dsimp only
  split
  · split
    · exact (ho.next (setFlag_keeps _ _)).next (hc _ _ _)
    · exact ho.next (hc _ _ _)
  · split
    · exact (ho.next (setFlag_keeps _ _)).next (lockout_keeps _ _)
    · exact ho.next (lockout_keeps _ _)

theorem exitTest_keeps (s : State) : s.Kept again s.exitTest := by
  unfold State.exitTest
  split
  · split
    · exact runRebalance_keeps s _
    · exact State.Kept.refl s
  · exact State.Kept.refl s

theorem enterBypassing_keeps (s : State) (k : PassKind) : s.Kept again (s.enterBypassing k) :=
  ((changeState_keeps s _ (by nofun)).next (setEngine_keeps _ _ (by rfl))).next (exitTest_keeps _)

theorem enterHalted_keeps (s : State) : s.Kept again s.enterHalted := by
  unfold State.enterHalted
  dsimp only
  split
  · exact (changeState_keeps s _ (by nofun)).next (enterBypassing_keeps _ _)
  · exact (changeState_keeps s _ (by nofun)).next (setEngine_keeps _ _ (by rfl))

theorem accounting_keeps (s : State) : s.Kept again s.accounting := by
  have h : s.Kept again s.sampleLines := setEngine_keeps s _ (by rfl)
  unfold State.accounting
  dsimp only
  split
  · exact (h.next (setEngine_keeps _ _ (by rfl))).next (enterHalted_keeps _)
  · exact h.next (lockout_keeps _ _)

theorem faultNotice_keeps (s : State) : s.Kept again s.faultNotice := by
  unfold State.faultNotice
  split
  all_goals first
    | exact (endPass_keeps s _).next (accounting_keeps _)
    | exact exitTest_keeps s
    | exact State.Kept.refl s

theorem enterRunning_keeps (s : State) : s.Kept again s.enterRunning := by
  have h : s.Kept again (s.changeState .running) := changeState_keeps s _ (by nofun)
  unfold State.enterRunning
  dsimp only
  split
  · split
    · exact h.next (setEngine_keeps _ _ (by rfl))
    · exact (h.next (setEngine_keeps _ _ (by rfl))).next (setFlag_keeps _ _)
  · exact h

theorem enterProving_keeps (s : State) : s.Kept again s.enterProving :=
  (changeState_keeps s _ (by nofun)).next (setEngine_keeps _ _ (by rfl))

theorem verificationPassed_keeps (s : State) : s.Kept again s.verificationPassed := by
  unfold State.verificationPassed
  split
  · split
    · exact enterRunning_keeps s
    · exact enterProving_keeps s
  · exact State.Kept.refl s

theorem passTest_keeps (s : State) : s.Kept again s.passTest := by
  unfold State.passTest
  split
  · exact verificationPassed_keeps s
  · exact State.Kept.refl s

/-! ## Fault intake -/

/-- A close completed of a record that is free (R10). -/
theorem closeCompletion_keeps {s : State} {p : Pos} (hf : s.Lawful → s.Free p)
    (hm : s.Lawful → (s.record p).closeFailed = false) : s.Kept again (s.closeCompletion p) :=
  setRecord_keeps fun h => by
    unfold Record.closeCompleted
    split
    · refine .inr ⟨hf h, fun a => ?_, fun a => ?_⟩
      · change (s.record p).closeFailed = true at a
        rw [hm h] at a; cases a
      · cases a
    · exact .rfl' s p

/-- A fault written into an active record, and its close completed or listed (R5, R10, R76). -/
theorem faultWritten_keeps {s : State} {p : Pos} (c : FaultCause) (t : Stamp) (prov : Bool)
    (hc : s.engine.state ≠ .config) (ha : (s.record p).state.active = true) :
    let u := (s.setRecord p ((s.record p).faultTaken c t prov)).setFlag .faultTaken
    s.Kept again (if (u.record p).contact = .closed then u.closeCompletion p
      else u.listClose p t c.eligible.isSome prov) := by
  intro u
  refine State.Kept.given fun h => ?_
  have hf := h.switched.free_active ha
  obtain ⟨m1, -⟩ := h.switched.unmarked (p := p) (by intro a; rw [a] at ha; cases ha)
  have hur : u.record p = (s.record p).faultTaken c t prov := by
    rw [State.setFlag_record, State.record_setRecord_same]
  have huf : u.Free p := ⟨hf.entry, hf.pulse⟩
  have hum : (u.record p).closeFailed = false := by rw [hur]; exact m1
  have hk : s.Kept again u := by
    refine (setRecord_keeps fun _ => .inr ⟨hf, fun a => ?_, fun _ => rfl⟩).next (setFlag_keeps _ _)
    change (s.record p).closeFailed = true at a
    rw [m1] at a; cases a
  split
  · exact hk.next (closeCompletion_keeps (fun _ => huf) fun _ => hum)
  · refine hk.next (listEntry_keeps (fun _ => huf) hc ⟨by rw [hur]; rfl, hum, rfl, .inl ⟨by rw [hur]; rfl, ?_⟩⟩)
    rw [hur]
    cases c <;> simp [FaultCause.eligible, Record.faultTaken]

/-- Steps 1 to 4 of R59 against an active record. -/
theorem applyFault_keeps {s : State} {p : Pos} (c : FaultCause) (t : Stamp) (hc : s.engine.state ≠ .config)
    (ha : (s.record p).state.active = true) : s.Kept again (s.applyFault p c t) := by
  unfold State.applyFault
  cases hp : s.provisionalCode c with
  | some code =>
    exact (setIntake_keeps s _).next (faultWritten_keeps (s := s.openWindow p code t) c t true hc ha)
  | none => exact faultWritten_keeps c t false hc ha

/-- A CLOSE entry is withdrawn and its record restored (R8, R66). -/
theorem restoreMember_keeps (s : State) (p : Pos) : s.Kept again (s.restoreMember p) := by
  refine State.Kept.given fun h => (withoutEntries_keeps s _).next (setRecord_keeps fun hu => ?_)
  rw [State.setOrders_record]
  unfold Record.restored
  split
  · rename_i st hs hp
    refine .inr ⟨⟨fun e he hq => ?_, fun kind hk => ?_⟩, fun a => ?_, fun a => by cases a⟩
    · obtain ⟨hm, hn⟩ := List.mem_filter.mp he
      cases hk : e.kind with
      | toClose => simp [hq, hk] at hn
      | toOpen =>
        have ho := h.switched.openEntry e hm hk
        rw [hq, hs] at ho
        cases ho
    · cases kind with
      | toClose =>
        have ho := h.switched.closePulse p hk
        rw [hs] at ho
        cases ho
      | toOpen =>
        have ho := h.switched.openPulse p hk
        rw [hs] at ho
        cases ho
    · have ho := (h.switched.mark p a).2
      rw [hp] at ho
      cases ho
  · exact .rfl' _ p

theorem lockout_left (s : State) (c : LockoutCause) : (s.lockout c).engine.state ≠ .config := by
  by_cases h : s.engine.state = .lockout
  · rw [lockout_locked s c h, h]
    nofun
  · rw [lockout_engine s c h]
    exact fun a => by cases a

/-- The restoration of the members of a group, and the lockout request (R66, R67). -/
theorem restoreAll_keeps (s : State) (l : List Pos) : s.Kept again (s.restoreAll l) := by
  unfold State.restoreAll
  refine ((State.Kept.foldl _ restoreMember_keeps l s).next (lockout_keeps _ .commonCause)).next
    (State.Kept.foldlWith (Q := fun t => t.engine.state ≠ .config) _ _ (fun t p _ ht => ⟨?_, ?_⟩) _
      (lockout_left _ _))
  · unfold State.closeRestored
    split
    · rename_i ha
      exact applyFault_keeps _ _ ht ha.1
    · exact State.Kept.refl t
  · have hf : (t.closeRestored p).engine = t.engine := closeRestored_frame t p .engine (by decide)
    rw [hf]
    exact ht

/-- A fault of an active record is taken (R59). -/
theorem takeFault_keeps {s : State} {p : Pos} (c : FaultCause) (hc : s.engine.state ≠ .config)
    (ha : (s.record p).state.active = true) : s.Kept again (s.takeFault p c) := by
  have h1 : s.Kept again (s.applyFault p c s.time) := applyFault_keeps c s.time hc ha
  have hj : ∀ (t : State) code, t.Kept again (t.judge code p s.time) := by
    intro t code
    unfold State.judge
    split <;> exact (setIntake_keeps t _).next (restoreAll_keeps _ _)
  unfold State.takeFault
  dsimp only
  split
  · split
    · exact h1.next (hj _ _)
    · exact h1.next (faultNotice_keeps _)
  · exact h1.next (faultNotice_keeps _)

theorem takeContactOpen_keeps {s : State} {p : Pos} (hc : s.engine.state ≠ .config)
    (hs : (s.record p).state = .bypassed ∨ (s.record p).state = .quarantined) :
    s.Kept again (s.takeContactOpen p) := by
  have h1 : s.Kept again (s.applyContactOpen p s.time) := applyContactOpen_keeps s.time hc hs
  unfold State.takeContactOpen
  split
  all_goals first
    | exact h1.next (faultNotice_keeps _)
    | exact h1

theorem reportCode_keeps (s : State) (p : Pos) (c : CellCode) : s.Kept again (s.reportCode p c) := by
  unfold State.reportCode
  split
  · split
    · rename_i h
      exact takeFault_keeps _ (fun a => by rw [a] at h; simp [EngineState.takesCode] at h) h.1
    · exact State.Kept.refl s
  · exact State.Kept.refl s

theorem reportLink_keeps (s : State) (p : Pos) (c : FaultCause) : s.Kept again (s.reportLink p c) := by
  unfold State.reportLink
  split
  · rename_i h
    exact takeFault_keeps _ (fun a => by rw [a] at h; exact absurd h.2 (by nofun)) h.1
  · exact State.Kept.refl s

theorem reportContact_keeps {s : State} (p : Pos) (closed : Bool) (hc : s.engine.state ≠ .config) :
    s.Kept again (s.reportContact p closed) := by
  unfold State.reportContact
  split
  · split
    · rename_i h
      exact takeFault_keeps _ hc h
    · exact State.Kept.refl s
  · split
    · rename_i h
      exact takeContactOpen_keeps hc h
    · exact State.Kept.refl s

/-- A window ends: the hold of an entry and the prior state of its record alone change (R7, R63). -/
theorem windowExpiry_keeps (s : State) (p : Pos) : s.Kept again (s.windowExpiry p) := by
  unfold State.windowExpiry
  refine ((setIntake_keeps s _).next (setOrders_keeps (fun h => ?_) fun _ e he => ?_)).next
    (setRecord_keeps fun _ => ?_)
  · refine List.pairwise_map.mpr (h.switched.alone.imp fun {a b} hab => ?_)
    split_ifs <;> exact hab
  · obtain ⟨x, hx, rfl⟩ := List.mem_map.mp he
    refine ⟨x, hx, ?_⟩
    split_ifs <;> exact ⟨rfl, rfl, rfl, rfl, id, rfl, rfl⟩
  · unfold Record.madeOrdinary
    split
    · exact .inl ⟨rfl, rfl, .inr rfl, rfl, rfl⟩
    · exact .rfl' _ p

/-! ## Cell links -/

theorem badFrame_keeps (s : State) (ch : Chan) : s.Kept again (s.badFrame ch) := by
  unfold State.badFrame
  dsimp only
  split
  · exact setLink_keeps s ch _
  · split
    · exact ((setLink_keeps s ch _).next (clearRun_keeps _ _)).next (reportLink_keeps _ _ _)
    · exact (setLink_keeps s ch _).next (clearRun_keeps _ _)

theorem frameToRecord_keeps (s : State) (ch : Chan) (p : Pos) (f : UplinkFields) :
    s.Kept again (s.frameToRecord ch p f) := by
  have h1 : ∀ b, s.Kept again (s.setRecord p ((s.record p).measured f b)) := fun b =>
    setRecord_keeps fun _ => .inl ⟨rfl, rfl, .inl rfl, rfl, rfl⟩
  have h2 : ∀ b, s.Kept again (if b = true then (s.setRecord p ((s.record p).measured f b)).clearFaultReset ch
      else s.setRecord p ((s.record p).measured f b)) := by
    intro b
    split
    · exact (h1 b).next (setLink_keeps _ _ _)
    · exact h1 b
  unfold State.frameToRecord
  dsimp only
  split
  · split
    · exact (h2 _).next (passTest_keeps _)
    · exact h2 _
  · exact (h2 _).next (reportCode_keeps _ _ _)

theorem checkFrame_keeps (s : State) (ch : Chan) (b0 b1 b2 b3 b4 : Byte) :
    s.Kept again (s.checkFrame ch b0 b1 b2 b3 b4) := by
  unfold State.checkFrame State.validFrame
  split
  · split
    · unfold State.duplicateFrame
      dsimp only
      split_ifs
      · exact setLink_keeps s ch _
      · exact State.Kept.refl s
      · exact (setLink_keeps s ch _).next (setFlag_keeps _ _)
      · exact setFlag_keeps _ _
    · unfold State.acceptFrame
      dsimp only
      split
      · exact (setLink_keeps s ch _).next (frameToRecord_keeps _ _ _ _)
      · exact (setLink_keeps s ch _).next (setFlag_keeps _ _)
  · exact badFrame_keeps s ch

theorem uplinkWord_keeps (s : State) (ch : Chan) (w : BitVec 12) : s.Kept again (s.uplinkWord ch w) := by
  unfold State.uplinkWord
  split
  · unfold State.markerWord
    dsimp only
    split
    · exact ((setLink_keeps s ch _).next (badFrame_keeps _ _)).next (setLink_keeps _ _ _)
    · exact setLink_keeps s ch _
  · unfold State.continuationWord
    split
    · exact badFrame_keeps s ch
    · dsimp only
      split
      · unfold State.closeFrame
        dsimp only
        split
        · exact (setLink_keeps s ch _).next (badFrame_keeps _ _)
        · split
          · exact (setLink_keeps s ch _).next (checkFrame_keeps _ _ _ _ _ _ _)
          · exact (setLink_keeps s ch _).next (badFrame_keeps _ _)
      · exact setLink_keeps s ch _

theorem silenceDetected_keeps (s : State) (ch : Chan) : s.Kept again (s.silenceDetected ch) := by
  unfold State.silenceDetected
  dsimp only
  split
  · exact ((setLink_keeps s ch _).next (clearRun_keeps _ _)).next (reportLink_keeps _ _ _)
  · exact setLink_keeps s ch _

/-! ## Switch matrix -/

/-- An open completed of a record that is free (R13). -/
theorem openConfirmed_keeps {s : State} {p : Pos} (hf : s.Lawful → s.Free p) :
    s.Kept again (s.openConfirmed p) := by
  have h1 : s.Kept again (s.setRecord p ((s.record p).openConfirmed s.params.tPROB)) :=
    setRecord_keeps fun h => by
      unfold Record.openConfirmed
      split
      · rename_i ho
        obtain ⟨m1, m2⟩ := h.switched.unmarked (p := p) (by rw [ho]; nofun)
        refine .inr ⟨hf h, fun a => ?_, fun a => ?_⟩
        · change (s.record p).closeFailed = true at a
          rw [m1] at a; cases a
        · change (s.record p).prior.isSome at a
          rw [m2] at a; cases a
      · exact .rfl' s p
  have h2 : ∀ t : State, t.Kept again (t.setFaultReset p) := fun t => by
    unfold State.setFaultReset
    split
    · exact setLink_keeps t _ _
    · exact State.Kept.refl t
  unfold State.openConfirmed
  dsimp only
  split
  · exact (h1.next (h2 _)).next (setFlag_keeps _ _)
  · exact h1.next (setFlag_keeps _ _)

theorem concluded_target (ended : Stamp) (recovered : Bool) : (concluded ended recovered).target = none := by
  cases recovered <;> rfl

theorem concluded_over (ended : Stamp) (recovered : Bool) (p : Pos) (kind : SwitchKind) (since : Stamp) :
    concluded ended recovered ≠ .firing p kind since := by
  cases recovered <;> exact fun a => by cases a

/-- The conclusion of a pulse that is SETTLING frees the position it stood for. -/
theorem concluded_keeps {s : State} {p : Pos} {kind : SwitchKind} {ended : Stamp} {recovered : Bool}
    (hu : s.matrix.unit = .settling p kind ended recovered) :
    s.Kept again (s.setUnit (concluded ended recovered)) ∧
    (s.Lawful → (s.setUnit (concluded ended recovered)).Free p) := by
  refine ⟨setUnit_keeps (fun h hc => ?_) (.inr (concluded_target _ _)) (concluded_over _ _), fun h => ⟨?_, ?_⟩⟩
  · have h2 := (h.switched.config hc).2
    rw [hu] at h2
    cases h2
  · exact h.switched.pulseAlone p kind (by rw [hu]; rfl)
  · intro k hk
    rw [State.setUnit_unit, concluded_target] at hk
    cases hk

theorem setFaultReset_setUnit (s : State) (p : Pos) (u : FiringUnit) :
    (s.setFaultReset p).setUnit u = (s.setUnit u).setFaultReset p := by
  unfold State.setFaultReset
  rw [State.setUnit_record]
  cases (s.record p).channel <;> rfl

theorem openConfirmed_setUnit (s : State) (p : Pos) (u : FiringUnit) :
    (s.openConfirmed p).setUnit u = (s.setUnit u).openConfirmed p := by
  unfold State.openConfirmed
  rw [State.setUnit_record]
  dsimp only
  split
  · show ((s.setRecord p _).setFaultReset p |>.setUnit u).setFlag .switchDone = _
    rw [setFaultReset_setUnit]
    rfl
  · rfl

/-- A settled change that confirms a pulse (R84, R86). -/
theorem confirm_keeps (s : State) (p : Pos) (closed : Bool) : s.Kept again (s.confirm p closed) := by
  unfold State.confirm
  split
  · rename_i q kind ended recovered hu
    split
    · rename_i hq
      obtain ⟨rfl, -⟩ := hq
      obtain ⟨k1, k2⟩ := concluded_keeps (again := again) hu
      split
      · refine State.Kept.given fun h => ?_
        have hs : (s.record q).state = .closing := h.switched.closePulse q (by rw [hu]; rfl)
        have hm := (h.switched.unmarked (p := q) (by rw [hs]; nofun)).1
        refine State.Kept.next ?_ (exitTest_keeps _)
        show s.Kept again ((s.setUnit (concluded ended recovered)).closeConfirmed q)
        exact (k1.next (closeCompletion_keeps (fun _ => k2 h) fun _ => hm)).next (setFlag_keeps _ _)
      · refine State.Kept.given fun h => ?_
        rw [openConfirmed_setUnit]
        exact k1.next (openConfirmed_keeps fun _ => k2 h)
      · exact State.Kept.refl s
      · exact State.Kept.refl s
    · exact State.Kept.refl s
  all_goals exact State.Kept.refl s

/-- A settled change (R72). -/
theorem settledChange_keeps (s : State) (p : Pos) (closed : Bool) : s.Kept again (s.settledChange p closed) := by
  have h1 : s.Kept again (s.setRecord p { s.record p with contact := contactOf closed }) :=
    setRecord_keeps fun _ => .inl ⟨rfl, rfl, .inl rfl, rfl, rfl⟩
  have h := h1.next (confirm_keeps (s.setRecord p { s.record p with contact := contactOf closed }) p closed)
  unfold State.settledChange
  dsimp only
  generalize (s.setRecord p { s.record p with contact := contactOf closed }).confirm p closed = u at h ⊢
  split
  · rename_i hc
    refine h.next (setRecord_keeps fun hu => ?_)
    have hf := hu.switched.free_config hc p
    have hn : ∀ st, (u.record p).state ≠ .faulted → u.RecordKept p { u.record p with state := st } := by
      intro st hs
      obtain ⟨m1, m2⟩ := hu.switched.unmarked hs
      refine .inr ⟨hf, fun a => ?_, fun a => ?_⟩
      · change (u.record p).closeFailed = true at a
        rw [m1] at a; cases a
      · change (u.record p).prior.isSome at a
        rw [m2] at a; cases a
    unfold Record.follow
    split
    · rename_i hs
      split
      · exact hn _ (by rw [hs]; nofun)
      · exact .rfl' u p
    · rename_i hs
      split
      · exact .rfl' u p
      · exact hn _ (by rw [hs]; nofun)
    all_goals exact .rfl' u p
  · rename_i hc
    exact h.next (reportContact_keeps p closed hc)

/-- A read of a contact (R71). -/
theorem readContact_keeps (s : State) (p : Pos) (closed : Bool) : s.Kept again (s.readContact p closed) := by
  have hd : ∀ d, s.Kept again (s.setDebounce p d) := fun d => scan_keeps rfl rfl rfl rfl rfl (.inl rfl)
  unfold State.readContact
  dsimp only
  split
  · split
    · exact State.Kept.refl s
    · split
      · exact (hd _).next (settledChange_keeps _ _ _)
      · exact hd _
  · exact hd _

/-- The end of a dwell, which no pulse suspends (R70, R73). -/
theorem dwellEnd_keeps {s : State} (a b c : Bool) (hd : s.dwellDue = true) :
    s.Kept again (s.dwellEnd a b c) := by
  refine State.Kept.given fun h => ?_
  have hn : ∀ p kind since, s.matrix.unit ≠ .firing p kind since := by
    intro p kind since hu
    unfold State.dwellDue at hd
    rw [h.switched.scan p kind since hu] at hd
    cases hd
  have h1 : s.Kept again (s.setSense { a := a, b := b, c := c }) := State.Kept.aside rfl rfl (.inl rfl) rfl
  have h2 := ((h1.next (readContact_keeps _ (posAt 0 s.matrix.pointer) a)).next
    (readContact_keeps _ (posAt 1 s.matrix.pointer) b)).next
    (readContact_keeps _ (posAt 2 s.matrix.pointer) c)
  unfold State.dwellEnd
  dsimp only
  generalize (((s.setSense { a := a, b := b, c := c }).readContact (posAt 0 s.matrix.pointer) a).readContact
    (posAt 1 s.matrix.pointer) b).readContact (posAt 2 s.matrix.pointer) c = u at h2 ⊢
  exact h2.next (scan_keeps rfl rfl rfl rfl rfl (.inr fun p kind since hu =>
    hn p kind since (((h2 h).pulse p kind since hu).trans hu)))

/-- The end of a hold-off keeps the laws (R79). -/
theorem holdOffExpiry_lawful {s : State} (p : Pos) (h : s.Lawful) : (s.holdOffExpiry p).Lawful := by
  unfold State.holdOffExpiry
  refine setOrders_lawful h (List.pairwise_map.mpr (h.switched.alone.imp fun {a b} hab => ?_)) fun e he => ?_
  · split_ifs <;> exact hab
  · obtain ⟨x, hx, rfl⟩ := List.mem_map.mp he
    refine ⟨x, hx, ?_⟩
    split_ifs <;> exact ⟨rfl, rfl⟩

/-- A pulse starts for a free position whose record waits for it (R73, R81, R83). -/
theorem pulseStart_lawful {s : State} {p : Pos} {kind : SwitchKind} (h : s.Lawful) (hf : s.Free p)
    (hc : s.engine.state ≠ .config)
    (hs : match kind with
      | .toClose => (s.record p).state = .faulted ∧ (s.record p).closeFailed = false
      | .toOpen => (s.record p).state = .opening) :
    (s.pulseStart p kind).Lawful ∧ s.Lists again (s.pulseStart p kind) := by
  obtain ⟨r, hr, hk, hst⟩ : ∃ r : Record, s.pulseStart p kind =
      (s.setRecord p r).setMatrix { s.matrix with unit := .firing p kind s.time, dwell := none } ∧
      s.RecordKept p r ∧ r.state = (if kind = .toClose then .closing else .opening) := by
    cases kind with
    | toClose =>
      refine ⟨{ s.record p with state := .closing, prior := none }, ?_, .inr ⟨hf, fun a => ?_, fun a => ?_⟩, rfl⟩
      · show (s.setMatrix _).setRecord p (s.record p).closeGranted = _
        unfold Record.closeGranted
        rw [if_pos hs.1]
        rfl
      · change (s.record p).closeFailed = true at a
        rw [hs.2] at a; cases a
      · cases a
    | toOpen =>
      refine ⟨s.record p, ?_, .rfl' s p, hs⟩
      unfold State.setRecord State.record
      have he : s.roster.set p s.roster[p] = s.roster := by simp
      rw [he]
      rfl
  have h1 := setRecord_keeps (again := again) (fun _ => hk) h
  have hw := h1.lawful.switched
  rw [hr]
  have hp : ((s.setRecord p r).record p).state = r.state := by rw [State.record_setRecord_same]
  refine ⟨⟨h.running, hw.alone, hw.capacity, hw.closeEntry, hw.openEntry, ?_, ?_, ?_, hw.mark, hw.prior,
    fun _ _ _ _ => rfl, fun a => absurd a hc, fun a => absurd h.running a⟩, fun e he hke => ?_⟩
  · intro q hq
    obtain ⟨rfl, rfl⟩ : p = q ∧ kind = .toClose := by
      simpa [FiringUnit.target, State.setMatrix] using hq
    rw [State.setMatrix_record, hp, hst, if_pos rfl]
  · intro q hq
    obtain ⟨rfl, rfl⟩ : p = q ∧ kind = .toOpen := by
      simpa [FiringUnit.target, State.setMatrix] using hq
    rw [State.setMatrix_record, hp, hst, if_neg (by simp)]
  · intro q k hq e he
    obtain ⟨rfl, -⟩ : p = q ∧ kind = k := by
      simpa [FiringUnit.target, State.setMatrix] using hq
    exact hf.entry e he
  · rcases h1.entry e he hke with ⟨x, hx, hs⟩ | ⟨ha, ht⟩ | ha
    · exact .inl ⟨x, hx, ⟨hs.pos, hs.kind, hs.stamp, hs.mark, hs.run, hs.recordStamp, hs.recordCause⟩⟩
    · exact .inr (.inl ⟨ha, ⟨ht.stamp, ht.mark⟩⟩)
    · exact .inr (.inr ha)

/-- The entry that the unit grants stands in the list (R81). -/
theorem nextEligible_listed {s : State} {e : Entry} (h : s.nextEligible = some e) :
    e ∈ s.matrix.orders ∧ e.eligible s.engine.state = true :=
  ⟨List.mem_of_find?_eq_some h, List.find?_some (p := fun x : Entry => x.eligible s.engine.state) h⟩

/-- An entry leaves the list and its position is free, with the unit IDLE. -/
theorem granted_free {s : State} {e : Entry} (h : s.Lawful) (hu : s.matrix.unit = .idle)
    (he : e ∈ s.matrix.orders) : (s.setOrders (withoutEntry e.pos e.kind s.matrix.orders)).Free e.pos := by
  constructor
  · intro x hx hp
    obtain ⟨hm, hn⟩ := List.mem_filter.mp hx
    have hxe : x = e := Entry.alone h.switched.alone hm he hp
    subst hxe
    simp at hn
  · intro kind hk
    rw [State.setOrders_unit, hu] at hk
    cases hk

/-- A grant keeps the laws, whether it completes at once or starts a pulse (R81 to R83). -/
theorem entryGrant_lawful {s : State} (h : s.Lawful) (hg : s.grantDue = true) :
    s.entryGrant.Lawful ∧ s.Lists again s.entryGrant := by
  unfold State.grantDue at hg
  rw [Bool.and_eq_true] at hg
  have hu : s.matrix.unit = .idle := beq_iff_eq.mp hg.1
  unfold State.entryGrant
  split
  · rename_i e hn
    have he := (nextEligible_listed hn).1
    have hc : s.engine.state ≠ .config := by
      intro a
      rw [(h.switched.config a).1] at he
      cases he
    have hf := granted_free h hu he
    have k1 : s.Kept again (s.setOrders (withoutEntry e.pos e.kind s.matrix.orders)) := withoutEntries_keeps s _
    have h1 := (k1 h).lawful
    have hpulse : ∀ kind, e.kind = kind →
        ((s.setOrders (withoutEntry e.pos e.kind s.matrix.orders)).pulseStart e.pos kind).Lawful ∧
        s.Lists again ((s.setOrders (withoutEntry e.pos e.kind s.matrix.orders)).pulseStart e.pos kind) := by
      intro kind hk
      have hp := pulseStart_lawful (again := again) (kind := kind) h1 hf hc (by
        cases kind with
        | toClose => exact h.switched.closeEntry e he hk
        | toOpen => exact h.switched.openEntry e he hk)
      refine ⟨hp.1, fun x hx hxk => ?_⟩
      rcases hp.2 x hx hxk with ⟨y, hy, hyx⟩ | hr
      · rcases (k1 h).entry y hy (hyx.kind.trans hxk) with ⟨z, hz, hzy⟩ | ⟨hr, ht⟩ | ⟨hr, hm, ha⟩
        · exact .inl ⟨z, hz, hzy.trans hyx⟩
        · exact .inr (.inl ⟨hyx.unrun hr, hyx.ties ht⟩)
        · exact .inr (.inr ⟨hyx.unrun hr, by rw [← hyx.mark, hm], hyx.pos ▸ ha⟩)
      · exact .inr hr
    unfold State.grant
    dsimp only
    split
    · rename_i hk _
      have hm : ((s.setOrders (withoutEntry e.pos e.kind s.matrix.orders)).record e.pos).closeFailed = false := by
        rw [State.setOrders_record]
        exact (h.switched.closeEntry e he hk).2
      have k2 := ((k1.next (closeCompletion_keeps (fun _ => hf) fun _ => hm)).next
        (setFlag_keeps _ .switchDone)).next (exitTest_keeps _)
      exact ⟨(k2 h).lawful, (k2 h).entry⟩
    · have k2 := k1.next (openConfirmed_keeps fun _ => hf)
      exact ⟨(k2 h).lawful, (k2 h).entry⟩
    all_goals
      rename_i hk _
      exact hpulse _ hk
  · exact ⟨h, (State.Kept.refl s h).entry⟩

/-- The end of a pulse (R83). -/
theorem pulseEnd_keeps (s : State) : s.Kept again s.pulseEnd := by
  unfold State.pulseEnd
  split
  · rename_i p kind since hu
    refine setMatrix_keeps (fun h hc => ?_) rfl (.inl ?_) fun _ _ _ a => by cases a
    · have h2 := (h.switched.config hc).2
      rw [hu] at h2
      cases h2
    · rw [hu]
      rfl
  all_goals exact State.Kept.refl s

theorem timeoutDue_settling {s : State} {kind : SwitchKind} (h : s.timeoutDue kind = true) :
    ∃ p ended recovered, s.matrix.unit = .settling p kind ended recovered := by
  unfold State.timeoutDue at h
  split at h
  · rename_i p k ended recovered hu
    rw [Bool.and_eq_true, beq_iff_eq] at h
    obtain ⟨rfl, -⟩ := h
    exact ⟨p, ended, recovered, hu⟩
  all_goals cases h

/-- A CLOSE pulse times out (R85). -/
theorem closeTimeout_keeps {s : State} (hd : s.timeoutDue .toClose = true) : s.Kept again s.closeTimeout := by
  obtain ⟨p, ended, recovered, hu⟩ := timeoutDue_settling hd
  obtain ⟨k1, k2⟩ := concluded_keeps (again := again) hu
  refine State.Kept.given fun h => ?_
  unfold State.closeTimeout
  rw [hu]
  dsimp only
  show s.Kept again ((((s.setUnit (concluded ended recovered)).setRecord p (s.record p).closeTimedOut).setFlag
    .switchFail).lockout .switchFail)
  refine ((k1.next (setRecord_keeps fun _ => ?_)).next (setFlag_keeps _ _)).next (lockout_keeps _ _)
  have hs : (s.record p).state = .closing := h.switched.closePulse p (by rw [hu]; rfl)
  obtain ⟨m1, m2⟩ := h.switched.unmarked (p := p) (by rw [hs]; nofun)
  unfold Record.closeTimedOut
  rw [if_pos hs]
  exact .inr ⟨k2 h, fun _ => ⟨rfl, m2⟩, fun _ => rfl⟩

/-- An OPEN pulse times out (R87). -/
theorem openTimeout_keeps {s : State} (hd : s.timeoutDue .toOpen = true) : s.Kept again s.openTimeout := by
  obtain ⟨p, ended, recovered, hu⟩ := timeoutDue_settling hd
  obtain ⟨k1, k2⟩ := concluded_keeps (again := again) hu
  refine State.Kept.given fun h => ?_
  unfold State.openTimeout
  rw [hu]
  dsimp only
  show s.Kept again (((s.setUnit (concluded ended recovered)).setRecord p (s.record p).openEnded).setFlag
    .switchFail)
  refine (k1.next (setRecord_keeps fun _ => ?_)).next (setFlag_keeps _ _)
  have hs : (s.record p).state = .opening := h.switched.openPulse p (by rw [hu]; rfl)
  obtain ⟨m1, m2⟩ := h.switched.unmarked (p := p) (by rw [hs]; nofun)
  unfold Record.openEnded
  rw [if_pos hs]
  refine .inr ⟨k2 h, fun a => ?_, fun a => ?_⟩
  · change (s.record p).closeFailed = true at a
    rw [m1] at a; cases a
  · change (s.record p).prior.isSome at a
    rw [m2] at a; cases a

/-- The end of recovery (R80). -/
theorem recoveryEnd_keeps (s : State) : s.Kept again s.recoveryEnd := by
  have hc : s.matrix.unit ≠ .idle → s.Lawful → s.engine.state ≠ .config := fun hn h a =>
    hn (h.switched.config a).2
  unfold State.recoveryEnd
  split
  · rename_i p kind ended recovered hu
    exact setUnit_keeps (hc (by rw [hu]; exact fun a => by cases a)) (.inl (by rw [hu]; rfl))
      fun _ _ _ a => by cases a
  · rename_i ended hu
    exact setUnit_keeps (hc (by rw [hu]; exact fun a => by cases a)) (.inr rfl) fun _ _ _ a => by cases a
  all_goals exact State.Kept.refl s

/-! ## Winder lines and running time -/

theorem setLines_keeps (s : State) (l : Lines) : s.Kept again (s.setLines l) :=
  State.Kept.aside rfl rfl (.inl rfl) rfl

theorem enterCharging_keeps (s : State) : s.Kept again s.enterCharging :=
  (changeState_keeps s _ (by nofun)).next (setEngine_keeps _ _ (by rfl))

/-- The edges of the winder lines that move the engine (R95, R96, R99, R103, R110). -/
theorem edges_keep (s : State) : s.Kept again s.energizedRise ∧ s.Kept again s.energizedFall ∧
    s.Kept again s.estopFall ∧ s.Kept again s.brakeRise ∧ s.Kept again s.provenRise := by
  refine ⟨?_, ?_, ?_, ?_, ?_⟩
  · unfold State.energizedRise
    split
    · exact enterCharging_keeps s
    · exact State.Kept.refl s
  · unfold State.energizedFall
    split
    all_goals first
      | exact (endPass_keeps s _).next (changeState_keeps _ _ (by nofun))
      | exact State.Kept.refl s
  · unfold State.estopFall
    split
    all_goals first
      | exact lockout_keeps s _
      | exact State.Kept.refl s
  · unfold State.brakeRise
    split
    · exact enterBypassing_keeps s _
    · exact State.Kept.refl s
  · unfold State.provenRise
    split
    · exact enterRunning_keeps s
    · exact State.Kept.refl s

theorem graceExpiry_keeps (s : State) : s.Kept again s.graceExpiry := by
  unfold State.graceExpiry
  split
  · exact enterBypassing_keeps s _
  · exact runRebalance_keeps s _

theorem provingTimeout_keeps (s : State) : s.Kept again s.provingTimeout :=
  (endPass_keeps s _).next (accounting_keeps _)

theorem setAccrual_keeps (s : State) (n : Nat) : s.Kept again (s.setAccrual n) :=
  State.Kept.aside rfl rfl (.inl rfl) rfl

theorem secondsPassed_keeps (s : State) : s.Kept again (s.mapRecords fun _ r => r.secondPassed) :=
  mapRecords_keeps fun _ p => by
    unfold Record.secondPassed
    split
    · exact .inl ⟨rfl, rfl, .inl rfl, rfl, rfl⟩
    · exact .rfl' s p

/-- Running time at the roster touches no entry and no pulse (R16). -/
theorem runningSecond_keeps (s : State) : s.Kept again s.runningSecond :=
  (setAccrual_keeps s _).next (secondsPassed_keeps _)

theorem probation_keeps {s : State} {p : Pos} (hd : s.probationDue p = true) :
    s.Kept again (s.setRecord p (s.record p).probationCompleted) := setRecord_keeps fun h => by
  have hs : (s.record p).state = .probation := by
    unfold State.probationDue at hd
    rw [Bool.and_eq_true] at hd
    exact beq_iff_eq.mp hd.1
  obtain ⟨m1, m2⟩ := h.switched.unmarked (p := p) (by rw [hs]; nofun)
  refine .inr ⟨h.switched.free_active (by rw [hs]; rfl), fun a => ?_, fun a => ?_⟩
  · change (s.record p).closeFailed = true at a
    rw [m1] at a; cases a
  · change (s.record p).prior.isSome at a
    rw [m2] at a; cases a

/-! ## Publication -/

theorem verifyingEntry_keeps (s : State) : s.Kept again s.verifyingEntry := by
  unfold State.verifyingEntry
  dsimp only
  refine ((mapRecords_keeps fun _ p => ?_).next (setPublisher_keeps _ _)).next (passTest_keeps _)
  split
  · exact .inl ⟨rfl, rfl, .inl rfl, rfl, rfl⟩
  · exact .rfl' s p

theorem adoption_keeps (s : State) (g : BitVec 16) : s.Kept again (s.adoption g) := by
  unfold State.adoption
  split
  · exact ((setPublisher_keeps s _).next (changeState_keeps _ _ (by nofun))).next (verifyingEntry_keeps _)
  · exact State.Kept.refl s

theorem adoptionWord_keeps (s : State) (d : Byte) (i : Bool) : s.Kept again (s.adoptionWord d i) := by
  unfold State.adoptionWord
  split
  · exact setPublisher_keeps s _
  · split
    · exact State.Kept.refl s
    · split
      · refine State.Kept.next (t := s.setReceiver none) (setPublisher_keeps s _) ?_
        unfold State.adoptionClosed
        split
        · split
          · exact adoption_keeps _ _
          · exact State.Kept.refl _
        · exact State.Kept.refl _
      · exact setPublisher_keeps s _

/-- The verification deadline, in VERIFYING (R164). -/
theorem verExpiry_keeps {s : State} (hc : s.engine.state ≠ .config) : s.Kept again s.verExpiry := by
  unfold State.verExpiry
  split
  · exact verificationPassed_keeps s
  · refine ((State.Kept.foldlWith (Q := fun t => t.engine.state ≠ .config) _ _ (fun t p _ ht => ⟨?_, ?_⟩) s
      hc).next (endPass_keeps _ _)).next (accounting_keeps _)
    · unfold State.verifyFail
      split
      · rename_i ha
        exact applyFault_keeps _ _ ht ha
      · exact State.Kept.refl t
    · have hf : (t.verifyFail p).engine = t.engine := verifyFail_frame t p .engine (by decide)
      rw [hf]
      exact ht

/-! ## Requests -/

theorem request_keeps {s : State} {tag : Byte} {op : State → Executed} (h : s.Kept again (op s).state) :
    s.Kept again (s.request tag op) := by
  unfold State.request State.whileRunning
  split
  · exact h.next (answered_keeps _ _ _)
  all_goals exact State.Kept.refl s

/-- An EMPTY position is enrolled (R26). -/
theorem requestEnrol_keeps (p c : Byte) (n : BitVec 32) (t : Byte) (s : State) :
    s.Kept again (requestEnrol p c n t s).state := by
  unfold requestEnrol
  split
  · split
    · exact State.Kept.refl s
    · split
      · exact State.Kept.refl s
      · rename_i q _ _ _ _ _ hn
        refine setRecord_keeps fun h => .inr ⟨?_, fun a => (by cases a), fun a => by cases a⟩
        have hs : (s.record q).state = .empty := by
          unfold State.enrolRefusal at hn
          by_contra hne
          split at hn
          · cases hn
          · cases hn
        exact h.switched.free (fun a => by rw [hs] at a; cases a) (by rw [hs]; nofun) (by rw [hs]; nofun)
  all_goals exact State.Kept.refl s

/-- A position is emptied in CONFIG, or out of service (R27). -/
theorem requestRetire_keeps (p : Byte) (s : State) : s.Kept again (requestRetire p s).state := by
  unfold requestRetire
  split
  · exact State.Kept.refl s
  · rename_i q _
    split
    · exact State.Kept.refl s
    · split
      · exact State.Kept.refl s
      · rename_i ha
        have hu : ∀ o, s.Kept again (s.unassign o) ∧ (s.Free q → (s.unassign o).Free q) := by
          intro o
          unfold State.unassign
          split
          · exact ⟨setLink_keeps s _ _, fun hf => ⟨hf.entry, hf.pulse⟩⟩
          · exact ⟨State.Kept.refl s, id⟩
        refine State.Kept.given fun h => ?_
        refine (hu _).1.next (setRecord_keeps fun _ => .inr ⟨(hu _).2 ?_, fun a => (by cases a), fun a => by cases a⟩)
        by_cases hc : s.engine.state = .config
        · exact h.switched.free_config hc q
        · have hs : (s.record q).state = .bypassed ∨ (s.record q).state = .quarantined := by
            by_contra hn
            rw [not_or] at hn
            exact ha ⟨hc, hn.1, hn.2⟩
          exact h.switched.free (fun a => by rcases hs with b | b <;> rw [b] at a <;> cases a)
            (by rcases hs with b | b <;> rw [b] <;> nofun) (by rcases hs with b | b <;> rw [b] <;> nofun)

/-- A BYPASSED record is listed for opening, in DORMANT (R28, R77). -/
theorem requestReadmit_keeps (p : Byte) (s : State) : s.Kept again (requestReadmit p s).state := by
  unfold requestReadmit
  split
  · exact State.Kept.refl s
  · rename_i q _
    split
    · exact State.Kept.refl s
    · split
      · exact State.Kept.refl s
      · rename_i hd hb
        rw [ne_eq, not_not] at hd hb
        refine State.Kept.given fun h => ?_
        have hf : s.Free q := h.switched.free (fun a => by rw [hb] at a; cases a) (by rw [hb]; nofun)
          (by rw [hb]; nofun)
        obtain ⟨m1, m2⟩ := h.switched.unmarked (p := q) (by rw [hb]; nofun)
        refine State.Kept.next (setRecord_keeps fun _ => .inr ⟨hf, fun a => ?_, fun a => ?_⟩)
          (listEntry_keeps (fun _ => ⟨hf.entry, hf.pulse⟩) ?_ ?_)
        · change (s.record q).closeFailed = true at a
          rw [m1] at a; cases a
        · change (s.record q).prior.isSome at a
          rw [m2] at a; cases a
        · rw [State.setRecord_engine, hd]
          nofun
        · show ((s.setRecord q { s.record q with state := .opening }).record q).state = .opening
          rw [State.record_setRecord_same]

theorem releasedOpen_keeps (s : State) (p : Pos) : s.Kept again (s.releasedOpen p) := by
  unfold State.releasedOpen
  split
  · rename_i hc
    refine setRecord_keeps fun h => ?_
    unfold Record.follow
    split
    · rename_i hs
      rw [if_neg (by simp)]
      exact .rfl' s p
    · rename_i hs
      rw [if_neg (by simp)]
      obtain ⟨m1, m2⟩ := h.switched.unmarked (p := p) (by rw [hs]; nofun)
      refine .inr ⟨h.switched.free_config hc p, fun a => ?_, fun a => ?_⟩
      · change (s.record p).closeFailed = true at a
        rw [m1] at a; cases a
      · change (s.record p).prior.isSome at a
        rw [m2] at a; cases a
    all_goals exact .rfl' s p
  · rename_i hc
    split
    · rename_i hs
      exact takeContactOpen_keeps hc (.inl hs)
    · exact State.Kept.refl s

/-- Records in scope are released (R29). -/
theorem requestClearTally_keeps (k i : Byte) (s : State) : s.Kept again (requestClearTally k i s).state := by
  unfold requestClearTally
  split
  · exact State.Kept.refl s
  · dsimp only
    refine (mapRecords_keeps fun h p => ?_).next (State.Kept.foldl _ releasedOpen_keeps _ _)
    split
    · unfold Record.tallyCleared
      by_cases hs : (s.record p).state = .quarantined
      · obtain ⟨m1, m2⟩ := h.switched.unmarked (p := p) (by rw [hs]; nofun)
        refine .inr ⟨h.switched.free (fun a => by rw [hs] at a; cases a) (by rw [hs]; nofun)
          (by rw [hs]; nofun), fun a => ?_, fun a => ?_⟩
        · change (s.record p).closeFailed = true at a
          rw [m1] at a; cases a
        · change (s.record p).prior.isSome at a
          rw [m2] at a; cases a
      · rw [if_neg hs]
        exact .inl ⟨rfl, rfl, .inl rfl, rfl, rfl⟩
    · exact .rfl' s p

theorem requestSetParam_keeps (n : Byte) (v : BitVec 32) (s : State) :
    s.Kept again (requestSetParam n v s).state := by
  have hp : ∀ ps, s.Kept again (s.setParams ps) := fun ps => State.Kept.aside rfl rfl (.inl rfl) rfl
  unfold requestSetParam
  split
  · exact State.Kept.refl s
  · split
    · exact State.Kept.refl s
    · dsimp only
      split
      · refine (hp _).next (State.Kept.foldl _ (fun t ch => ?_) _ _)
        split
        · exact silenceDetected_keeps t ch
        · exact State.Kept.refl t
      · exact hp _

theorem requestStart_keeps (s : State) : s.Kept again (requestStart s).state := by
  unfold requestStart
  split
  · exact State.Kept.refl s
  · split
    · exact State.Kept.refl s
    · have h1 : s.Kept again (if s.energized = true then s.enterCharging else s.changeState .dormant) := by
        split
        · exact enterCharging_keeps s
        · exact changeState_keeps s _ (by nofun)
      show s.Kept again s.started
      unfold State.started
      dsimp only
      split
      · exact h1
      · exact h1.next (lockout_keeps _ _)

/-- The tables are no matter of the switches. -/
theorem tableRequests_keep (s : State) :
    (∀ h i j x y z f, s.Kept again (requestLoadShift h i j x y z f s).state) ∧
    (∀ h i j, s.Kept again (requestDropShift h i j s).state) ∧
    ∀ x d r p, s.Kept again (requestLoadScale x d r p s).state := by
  have ht : ∀ t, s.Kept again (s.setTables t) := fun t => State.Kept.aside rfl rfl (.inl rfl) rfl
  refine ⟨fun h i j x y z f => ?_, fun h i j => ?_, fun x d r p => ?_⟩
  · unfold requestLoadShift
    dsimp only
    split_ifs <;> first | exact State.Kept.refl s | exact ht _
  · unfold requestDropShift
    dsimp only
    split_ifs <;> first | exact State.Kept.refl s | exact ht _
  · unfold requestLoadScale
    split_ifs <;> first | exact State.Kept.refl s | exact ht _

/-- A record whose close failed is listed anew (R12, R76). -/
theorem relist_keeps {s : State} {p : Pos} (hc : s.engine.state ≠ .config)
    (ha : (s.record p).closeFailed = true → again p) : s.Kept again (s.relist p) := by
  unfold State.relist
  split
  · rename_i hm
    refine State.Kept.given fun h => ?_
    obtain ⟨hs, hp⟩ := h.switched.mark p hm
    have hf : s.Free p := h.switched.free (fun _ => hm) (by rw [hs]; nofun) (by rw [hs]; nofun)
    refine State.Kept.next (setRecord_keeps fun _ => .inr ⟨hf, fun a => (by cases a), fun a => ?_⟩)
      (listEntry_keeps (fun _ => ⟨hf.entry, hf.pulse⟩) hc ?_)
    · change (s.record p).prior.isSome at a
      rw [hp] at a; cases a
    · show ((s.setRecord p { s.record p with closeFailed := false }).record p).state = .faulted ∧
        ((s.setRecord p { s.record p with closeFailed := false }).record p).closeFailed = false ∧ _ ∧ _
      rw [State.record_setRecord_same]
      exact ⟨hs, rfl, rfl, .inr ⟨rfl, ha hm⟩⟩
  · exact State.Kept.refl s

theorem relist_record (s : State) (p q : Pos) :
    ((s.relist p).record q).closeFailed = true → (s.record q).closeFailed = true := by
  unfold State.relist
  split
  · show ((s.setRecord p { s.record p with closeFailed := false }).record q).closeFailed = true → _
    rw [State.record_setRecord]
    split
    · intro a
      cases a
    · exact id
  · exact id

/-- CLEAR_LOCKOUT lists anew each record whose close had failed (R12, R115). -/
theorem lockoutCleared_keeps {s : State} (hl : s.engine.state = .lockout)
    (ha : ∀ p, (s.record p).closeFailed = true → again p) : s.Kept again s.lockoutCleared := by
  have hf : s.Kept again (allPositions.foldl State.relist s) :=
    State.Kept.foldlWith (Q := fun t => t.engine.state = .lockout ∧
      ∀ p, (t.record p).closeFailed = true → again p) State.relist allPositions
      (fun t p _ ht => ⟨relist_keeps (by rw [ht.1]; nofun) (ht.2 p), by
        have he : (t.relist p).engine = t.engine := by
          unfold State.relist
          split <;> rfl
        rw [he]
        exact ht.1, fun q hq => ht.2 q (relist_record t p q hq)⟩) s ⟨hl, ha⟩
  unfold State.lockoutCleared
  generalize allPositions.foldl State.relist s = t at hf
  have h1 : t.Kept again (t.setEngine { t.engine with attempts := 1, cause := none }).sampleLines :=
    (setEngine_keeps t _ (by rfl)).next (setEngine_keeps _ _ (by rfl))
  dsimp only
  split
  · exact (hf.next h1).next (enterBypassing_keeps _ _)
  · exact (hf.next h1).next (changeState_keeps _ _ (by nofun))

theorem requestClearLockout_keeps (s : State) (ha : ∀ p, (s.record p).closeFailed = true → again p) :
    s.Kept again (requestClearLockout s).state := by
  unfold requestClearLockout
  split
  · exact State.Kept.refl s
  · rename_i hn
    rw [not_or, ne_eq, not_not] at hn
    dsimp only
    exact lockoutCleared_keeps hn.1 ha

/-- Every request but RESET, with CLEAR_LOCKOUT relisting where a close had failed. -/
theorem perform_keeps (s : State) (i : Instr) (hr : i ≠ .reset)
    (ha : (∃ tag, i = .clearLockout tag) → ∀ p, (s.record p).closeFailed = true → again p) :
    s.Kept again (s.perform i) := by
  have hread : ∀ tag op, (op s : Executed).state = s → s.Kept again (s.request tag op) := fun tag op h =>
    request_keeps (State.Kept.same h)
  have hport : ∀ p, s.Kept again (s.setPort p) := fun p => setPort_keeps s p
  cases i with
  | nop tag => exact hread _ _ rfl
  | lookup tag p => exact hread _ _ (requestLookup_state p s)
  | findChannel tag c => exact hread _ _ (requestFindChannel_state c s)
  | findSerial tag n => exact hread _ _ (requestFindSerial_state n s)
  | list tag c => exact hread _ _ (requestList_state c s)
  | linkStatus tag c => exact hread _ _ (requestLinkStatus_state c s)
  | enrol tag p c n t => exact request_keeps (requestEnrol_keeps p c n t s)
  | retire tag p => exact request_keeps (requestRetire_keeps p s)
  | readmit tag p => exact request_keeps (requestReadmit_keeps p s)
  | clearTally tag k i => exact request_keeps (requestClearTally_keeps k i s)
  | setParam tag n v => exact request_keeps (requestSetParam_keeps n v s)
  | getParam tag n => exact hread _ _ (requestGetParam_state n s)
  | start tag => exact request_keeps (requestStart_keeps s)
  | loadShift tag h i j x y z f => exact request_keeps ((tableRequests_keep s).1 h i j x y z f)
  | dropShift tag h i j => exact request_keeps ((tableRequests_keep s).2.1 h i j)
  | readShift tag k x y z => exact hread _ _ (requestReadShift_state k x y z s)
  | loadScale tag x d r p => exact request_keeps ((tableRequests_keep s).2.2 x d r p)
  | readScale tag x d => exact hread _ _ (requestReadScale_state x d s)
  | summary tag => exact hread _ _ rfl
  | clearLockout tag => exact request_keeps (requestClearLockout_keeps s (ha ⟨tag, rfl⟩))
  | ack tag f => exact request_keeps (hport _)
  | setMask tag m => exact request_keeps (hport _)
  | readCause tag => exact hread _ _ rfl
  | reset => exact absurd rfl hr
  | _ => exact State.Kept.refl s

/-! ## Resets and the passing of time -/

/-- A reset leaves nothing listed and no pulse (R89, R188). -/
theorem blocksReset_switched (s : State) (m : Mode) (r : ResetRecord) : (s.blocksReset m r).Switched := by
  have hr : ∀ p, (s.blocksReset m r).record p = Record.initial := by
    intro p
    unfold State.blocksReset State.record State.reset
    simp
  constructor
  · exact List.Pairwise.nil
  · exact Nat.zero_le _
  · rintro e he
    cases he
  · rintro e he
    cases he
  · intro p h
    cases h
  · intro p h
    cases h
  · rintro p kind h
    cases h
  · intro p h
    rw [hr] at h
    cases h
  · intro p h
    rw [hr] at h
    cases h
  · intro p kind since h
    cases h
  · exact fun _ => ⟨rfl, rfl⟩
  · exact fun _ => rfl

/-- The end of a reset starts the first dwell with the unit IDLE (R188). -/
theorem resetEnd_switched {s : State} (h : s.Switched) : s.resetEnd.Switched := by
  unfold State.resetEnd
  split
  · rename_i c hm
    have hc := h.stopped (by rw [hm]; exact fun a => by cases a)
    have hu := (h.config hc).2
    refine ⟨h.alone, h.capacity, h.closeEntry, h.openEntry, h.closePulse, h.openPulse, h.pulseAlone, h.mark,
      h.prior, fun p kind since a => ?_, h.config, fun a => absurd rfl a⟩
    change s.matrix.unit = .firing p kind since at a
    rw [hu] at a
    cases a
  · exact h
  · exact h

/-- One microsecond touches no entry and no pulse. -/
theorem tick_keeps (s : State) : s.Kept again s.tick := by
  unfold State.tick
  have h : s.Kept again (((s.setTime (s.time + 1)).setLines
      (if (s.time + 1).getLsbD 0 then s.lines else s.lines.sampled)).setAccrual
        (accrue s.runningTime s.accrual)) := State.Kept.aside rfl rfl (.inl rfl) rfl
  exact (h.next (setEngine_keeps _ _ (by rfl))).next (setPort_keeps _ _)

/-! ## Single events -/

theorem setCsN_keeps (s : State) (b : Bool) : s.Kept again (s.setCsN b) := State.Kept.aside rfl rfl (.inl rfl) rfl

/-- A transaction begins (R170 to R172). -/
theorem transactionBegin_keeps (s : State) : s.Kept again s.transactionBegin := by
  have h : s.Kept again (s.setCsN false) := setCsN_keeps s false
  unfold State.transactionBegin
  split
  · split
    · unfold State.csFall
      split
      · exact h.next (setPort_keeps _ _)
      · exact h.next (setPort_keeps _ _)
      all_goals exact h
    all_goals exact h
  · exact State.Kept.refl s

/-- A transaction that carries no RESET ends (R170, R173 to R175). -/
theorem transactionEnd_keeps (s : State) (mosi : List Bool) (hr : Instr.carried (.transactionEnd mosi) ≠ .reset)
    (ha : (∃ tag, Instr.carried (.transactionEnd mosi) = .clearLockout tag) →
      ∀ p, (s.record p).closeFailed = true → again p) : s.Kept again (s.transactionEnd mosi) := by
  have h : s.Kept again (s.setCsN true) := setCsN_keeps s true
  unfold State.transactionEnd
  split
  · exact State.Kept.refl s
  · split
    · unfold State.csRise
      split
      · refine h.next ?_
        unfold State.served
        split
        · exact answered_keeps _ _ _
        · rename_i i hi
          have hg : Instr.carried (.transactionEnd mosi) = i := by simp only [Instr.carried, hi]
          rw [hg] at hr ha
          exact perform_keeps _ i hr ha
      · exact h.next (setPort_keeps _ _)
      · exact h.next (setPort_keeps _ _)
      all_goals exact h
    all_goals exact h

theorem answerReady_keeps (s : State) : s.Kept again s.answerReady := by
  unfold State.answerReady
  split
  · exact setPort_keeps s _
  · exact setPort_keeps s _
  all_goals exact State.Kept.refl s

theorem setFraming_keeps (s : State) (ch : Chan) (f : Option OpenFrame) : s.Kept again (s.setFraming ch f) :=
  setLink_keeps s ch _

theorem framingAfterBad_keeps (s : State) (ch : Chan) (k : BadKind) :
    s.Kept again (s.framingAfterBad ch k) := by
  cases k with
  | interrupted w => exact setFraming_keeps s ch _
  | stray w => exact State.Kept.refl s
  | condemned => exact State.Kept.refl s
  | checksum => exact State.Kept.refl s

theorem downlinkBoundary_keeps (s : State) : s.Kept again s.downlinkBoundary := by
  have h : ∀ v t, s.Kept again ((s.setLinks v).setDownlinkSince t) := fun v t =>
    State.Kept.aside rfl rfl (.inl rfl) rfl
  exact h _ _

theorem groupClose_keeps (s : State) (c : Eligible) : s.Kept again (s.groupClose c) := setIntake_keeps s _

theorem frameEnd_keeps (s : State) : s.Kept again s.frameEnd := by
  unfold State.frameEnd
  split <;> exact setPublisher_keeps s _

theorem minExpiry_keeps (s : State) : s.Kept again s.minExpiry := by
  have h : ∀ p, s.Kept again (s.setPublisher p).passTest := fun p => (setPublisher_keeps s p).next (passTest_keeps _)
  exact h _

theorem cleanSecond_keeps (s : State) : s.Kept again s.cleanSecond := setEngine_keeps s _ (by rfl)

theorem cleanEnd_keeps (s : State) : s.Kept again s.cleanEnd := setEngine_keeps s _ (by rfl)

end Sys2Proof.Machine
end

