-- ==== Sys2Proof/Laws/Reads.lean ====
section
/-! SUPPORT. What one contact read does outside CONFIG; what the departure
from DORMANT and the CONTACT_OPENs of a CLEAR_TALLY do; each once, in the terms of Safety.lean. -/

namespace Sys2Proof.Machine

/-! ## The exit test, for records out of service and for CONFIG -/

/-- A rebalance of BYPASSING leads to PUBLISHING or LOCKOUT and leaves records that are no candidates. -/
theorem runRebalance_leaves (s : State) (kind : PassKind) (h : s.engine.state = .bypassing) :
    (s.runRebalance kind).engine.state ≠ .config ∧
    ∀ p, (s.record p).state.active = false → (s.runRebalance kind).record p = s.record p := by
  unfold State.runRebalance
  dsimp only
  cases rebalance s.roster s.params s.tables kind (s.passAttempt kind)
      (s.engine.sampledDir.getD Config.unsampledDir) with
  | lockout c miss =>
    dsimp only
    obtain ⟨u, hu, hs, hr⟩ : ∃ u : State,
        u = (if miss = true then (s.openPass kind).setFlag .tableMiss else s.openPass kind) ∧
        u.engine.state = .bypassing ∧ u.roster = s.roster := by
      refine ⟨_, rfl, ?_, ?_⟩ <;> cases miss <;> first | exact h | rfl
    rw [← hu]
    obtain ⟨h1, -, -, h4⟩ := lockout_locksOut u c (by rw [hs]; decide) (by rw [hs]; decide)
    refine ⟨by rw [h1]; exact (nofun : EngineState.lockout ≠ .config), fun p _ => ?_⟩
    rw [State.record_congr (h4 .roster (by decide)), State.record_congr hr]
  | commit r parked =>
    dsimp only
    obtain ⟨u, hu, hs, hr⟩ : ∃ u : State,
        u = (if r.miss = true then (s.openPass kind).setFlag .tableMiss else s.openPass kind) ∧
        u.engine.state = .bypassing ∧ u.roster = s.roster := by
      refine ⟨_, rfl, ?_, ?_⟩ <;> cases r.miss <;> first | exact h | rfl
    rw [← hu]
    obtain ⟨h1, -, h3, -, -, -⟩ := commit_spec u r parked (by rw [hs]; decide)
    refine ⟨by rw [h1]; exact (nofun : EngineState.publishing ≠ .config), fun p hp => ?_⟩
    have hu' := State.record_congr hr p
    rw [State.record_congr h3]
    unfold State.commitRoster
    rw [State.record_mapRecords, hu']
    unfold Record.committed
    rw [hp]
    rfl

theorem exitTest_leaves (s : State) (h : s.engine.state ≠ .config) :
    s.exitTest.engine.state ≠ .config ∧
    ∀ p, (s.record p).state.active = false → s.exitTest.record p = s.record p := by
  unfold State.exitTest
  split
  · rename_i hb
    split
    · exact runRebalance_leaves s _ hb.1
    · exact ⟨h, fun _ _ => rfl⟩
  · exact ⟨h, fun _ _ => rfl⟩

/-! ## Reports of contacts -/

/-- Steps 2 to 4 of R59 for a CONTACT_OPEN (R6). -/
theorem applyContactOpen_spec (s : State) (p : Pos) :
    let u := s.applyContactOpen p s.time
    s.OtherRecords u p ∧ u.record p = (s.record p).contactOpenTaken s.time ∧
    ((s.record p).state ≠ .bypassed → u.matrix = s.matrix) ∧
    ((s.record p).state = .bypassed → u.matrix = { s.matrix with
      orders := insertEntry ⟨p, .toClose, s.time, false, false, false⟩ s.matrix.orders }) ∧
    s.Raises u [.faultTaken] ∧ s.ChangesOnly u [.roster, .matrix, .port] := by
  intro u
  obtain ⟨v, hv⟩ : ∃ v, v = (s.setRecord p ((s.record p).contactOpenTaken s.time)).setFlag .faultTaken := ⟨_, rfl⟩
  have hu : u = if (s.record p).state = .bypassed then v.listClose p s.time false false else v := by
    rw [hv]
    rfl
  have h1 : s.OtherRecords v p := fun q hq => by
    rw [hv, State.setFlag_record, State.record_setRecord_ne _ _ _ _ hq]
  have h2 : v.record p = (s.record p).contactOpenTaken s.time := by
    rw [hv, State.setFlag_record, State.record_setRecord_same]
  have h3 : v.matrix = s.matrix := by rw [hv]; rfl
  have h4 : s.Raises v [.faultTaken] := by
    rw [hv]
    exact State.Raises.before rfl (setFlag_raises _ _)
  have h5 : s.ChangesOnly v [.roster, .matrix, .port] := by
    rw [hv]
    exact ((setRecord_frame s p _).more (by decide)).trans ((setFlag_frame _ _).more (by decide))
  by_cases hb : (s.record p).state = .bypassed
  · rw [if_pos hb] at hu
    have hf := listClose_frame v p s.time false false
    rw [← hu] at hf
    have hr : ∀ q, u.record q = v.record q := State.record_congr (hf .roster (by decide))
    refine ⟨fun q hq => by rw [hr, h1 q hq], by rw [hr, h2], fun a => absurd hb a, fun _ => ?_,
      h4.after (hf .port (by decide)), h5.trans (hf.more (by decide))⟩
    rw [hu, ← h3]
    rfl
  · rw [if_neg hb] at hu
    rw [hu]
    exact ⟨h1, h2, fun _ => h3, fun a => absurd a hb, h4, h5⟩

theorem insertEntry_sublist (e : Entry) (l : List Entry) : l.Sublist (insertEntry e l) := by
  obtain ⟨a, b, h1, h2, -, -⟩ := insertEntry_joins e l
  rw [h2, h1]
  exact (List.Sublist.refl a).append (List.sublist_cons_self e b)

/-- A CONTACT_OPEN taken of each of a list of BYPASSED records, one after another (R6, R29, R59). -/
theorem applyContactOpen_foldl (l : List Pos) (s : State) (hn : l.Nodup)
    (hb : ∀ p ∈ l, (s.record p).state = .bypassed) :
    let t := l.foldl (fun t p => t.applyContactOpen p t.time) s
    let listed (p : Pos) : Entry :=
      { pos := p, kind := .toClose, stamp := s.time, holdOff := false, holdOffRun := false, hold := false }
    (∀ p, p ∉ l → t.record p = s.record p) ∧
    (∀ p ∈ l, t.record p = { s.record p with
      state := .faulted, cause := some .contactOpen, stamp := some s.time }) ∧
    s.matrix.orders.Sublist t.matrix.orders ∧
    (∀ e, e ∈ t.matrix.orders ↔ e ∈ s.matrix.orders ∨ ∃ p ∈ l, e = listed p) ∧
    t.matrix.orders.length = s.matrix.orders.length + l.length ∧
    t.matrix = { s.matrix with orders := t.matrix.orders } ∧
    (l ≠ [] → s.Raises t [.faultTaken]) ∧ (l = [] → t = s) ∧
    s.ChangesOnly t [.roster, .matrix, .port] := by
  induction l generalizing s with
  | nil =>
    refine ⟨fun _ _ => rfl, nofun, .refl _, fun e => ?_, rfl, rfl, fun h => absurd rfl h, fun _ => rfl, .refl s _⟩
    exact ⟨.inl, fun a => a.elim id fun ⟨p, b, _⟩ => (nomatch b)⟩
  | cons q l ih =>
    obtain ⟨hq, hn⟩ := List.nodup_cons.mp hn
    rw [List.foldl_cons]
    obtain ⟨v1, v2, -, v4, v5, v6⟩ := applyContactOpen_spec s q
    have v4 := v4 (hb q List.mem_cons_self)
    have hv : ∀ p ∈ l, (s.applyContactOpen q s.time).record p = s.record p := fun p hp => v1 p fun a => hq (a ▸ hp)
    obtain ⟨i1, i2, i3, i4, i5, i6, i7, i8, i9⟩ := ih (s.applyContactOpen q s.time) hn
      fun p hp => by rw [hv p hp]; exact hb p (List.mem_cons_of_mem q hp)
    generalize s.applyContactOpen q s.time = v at v1 v2 v4 v5 v6 hv i1 i2 i3 i4 i5 i6 i7 i8 i9 ⊢
    generalize l.foldl (fun t p => t.applyContactOpen p t.time) v = t at i1 i2 i3 i4 i5 i6 i7 i8 i9 ⊢
    intro t' listed
    have hvt : v.time = s.time := v6 .time (by decide)
    have hvo : v.matrix.orders = insertEntry (listed q) s.matrix.orders := by rw [v4]
    refine ⟨fun p hp => ?_, fun p hp => ?_, ?_, fun e => ?_, ?_, by rw [i6, v4], fun _ => ?_, nofun, v6.trans i9⟩
    · rw [i1 p fun a => hp (List.mem_cons_of_mem q a), v1 p fun a => hp (a ▸ List.mem_cons_self)]
    · rcases List.mem_cons.mp hp with rfl | hp
      · rw [i1 p hq, v2]
        unfold Record.contactOpenTaken
        rw [if_pos (hb p List.mem_cons_self)]
      · rw [i2 p hp, hv p hp, hvt]
    · exact (hvo ▸ insertEntry_sublist _ _ : s.matrix.orders.Sublist v.matrix.orders).trans i3
    · rw [i4 e, hvo, mem_insertEntry, hvt]
      constructor
      · rintro ((a | a) | ⟨p, a, b⟩)
        · exact .inr ⟨q, List.mem_cons_self, a⟩
        · exact .inl a
        · exact .inr ⟨p, List.mem_cons_of_mem q a, b⟩
      · rintro (a | ⟨p, a, b⟩)
        · exact .inl (.inr a)
        · rcases List.mem_cons.mp a with rfl | a
          · exact .inl (.inl b)
          · exact .inr ⟨p, a, b⟩
    · rw [i5, hvo, (insertEntry_perm _ _).length_eq, List.length_cons, List.length_cons]
      omega
    · show s.Raises t _
      by_cases h : l = []
      · rw [i8 h]
        exact v5
      · exact (v5.trans (i7 h)).same fun f => by cases f <;> rfl
/-- A CONTACT_OPEN taken sends its notice in the four states of R60 alone. -/
theorem takeContactOpen_spec (s : State) (p : Pos) :
    let u := s.applyContactOpen p s.time
    (s.engine.state = .publishing ∨ s.engine.state = .verifying ∨ s.engine.state = .proving ∨
      s.engine.state = .running → u.Notified (s.takeContactOpen p)) ∧
    (¬(s.engine.state = .publishing ∨ s.engine.state = .verifying ∨ s.engine.state = .proving ∨
      s.engine.state = .running) → s.takeContactOpen p = u) := by
  intro u
  unfold State.takeContactOpen
  dsimp only
  cases h : s.engine.state with
  | running => exact ⟨fun _ => faultNotice_notified _, fun a => absurd (.inr (.inr (.inr rfl))) a⟩
  | proving => exact ⟨fun _ => faultNotice_notified _, fun a => absurd (.inr (.inr (.inl rfl))) a⟩
  | verifying => exact ⟨fun _ => faultNotice_notified _, fun a => absurd (.inr (.inl rfl)) a⟩
  | publishing => exact ⟨fun _ => faultNotice_notified _, fun a => absurd (.inl rfl) a⟩
  | config => exact ⟨fun a => by simp at a, fun _ => rfl⟩
  | dormant => exact ⟨fun a => by simp at a, fun _ => rfl⟩
  | charging => exact ⟨fun a => by simp at a, fun _ => rfl⟩
  | halted => exact ⟨fun a => by simp at a, fun _ => rfl⟩
  | bypassing => exact ⟨fun a => by simp at a, fun _ => rfl⟩
  | lockout => exact ⟨fun a => by simp at a, fun _ => rfl⟩

/-- A CONTACT_CLOSED taken against a record whose contact reads CLOSED (R58, R59, R10, R60). -/
theorem takeContactClosed_spec (s : State) (p : Pos) (hc : (s.record p).contact = .closed) :
    ∃ u : State, s.OtherRecords u p ∧
      u.record p = { s.record p with
        state := if s.params.qLim ≤ min 15 ((s.record p).tally + 1) ∨ (s.record p).probation ≠ none
          then .quarantined else .bypassed
        tally := min 15 ((s.record p).tally + 1), offset := none, cause := some .contactClosed,
        stamp := some s.time, probation := none, prior := none } ∧
      u.matrix = s.matrix ∧ s.Raises u [.faultTaken] ∧ s.ChangesOnly u [.roster, .matrix, .port] ∧
      u.Notified (s.takeFault p .contactClosed) := by
  obtain ⟨h1, -, -, h4, h5, h6, h7⟩ := applyFault_takes s p .contactClosed
  have hn : s.provisionalCode .contactClosed = none := by
    unfold State.provisionalCode
    split <;> rfl
  refine ⟨s.applyFault p .contactClosed s.time, h5, (h4 hc).1, (h4 hc).2, h6, ?_, ?_⟩
  · intro x hx
    by_cases hi : x = .intake
    · subst hi
      exact h1 (by rintro ⟨a | a | a, -⟩ <;> cases a)
    · exact h7 x (by simpa [hi] using hx)
  · unfold State.takeFault
    rw [hn]
    exact faultNotice_notified _

/-- A close confirmed (R10, R84). -/
theorem closeConfirmed_spec (s : State) (p : Pos) (h : (s.record p).state = .closing) :
    (s.closeConfirmed p).record p = { s.record p with
      state := if s.params.qLim ≤ min 15 ((s.record p).tally + 1) ∨ (s.record p).probation ≠ none
        then .quarantined else .bypassed
      tally := min 15 ((s.record p).tally + 1), probation := none, prior := none } ∧
    s.OtherRecords (s.closeConfirmed p) p ∧ s.Raises (s.closeConfirmed p) [.switchDone] ∧
    s.ChangesOnly (s.closeConfirmed p) [.roster, .port] := by
  unfold State.closeConfirmed
  refine ⟨?_, ?_, State.Raises.before (closeCompletion_frame s p .port (by decide)) (setFlag_raises _ _),
    ((closeCompletion_frame s p).more (by decide)).trans ((setFlag_frame _ _).more (by decide))⟩
  · rw [State.setFlag_record]
    unfold State.closeCompletion
    rw [State.record_setRecord_same]
    unfold Record.closeCompleted
    rw [if_pos (.inr h)]
    congr 1
    simp only [Bool.or_eq_true, decide_eq_true_eq, Option.isSome_iff_ne_none]
  · intro q hq
    rw [State.setFlag_record]
    exact State.record_setRecord_ne _ _ _ _ hq

/-- The fault-reset latch of a record's channel set (R49). -/
theorem setFaultReset_spec (s : State) (p : Pos) :
    (∀ ch, (s.record p).channel = some ch →
      (s.setFaultReset p).link ch = { s.link ch with tx := { (s.link ch).tx with faultReset := true } }) ∧
    (∀ ch, (s.record p).channel ≠ some ch → (s.setFaultReset p).link ch = s.link ch) ∧
    s.ChangesOnly (s.setFaultReset p) [.links] := by
  unfold State.setFaultReset
  cases (s.record p).channel with
  | none => exact ⟨nofun, fun _ _ => rfl, .refl s _⟩
  | some c =>
    refine ⟨fun ch a => ?_, fun ch a => setTx_other _ c _ ch fun b => a (by rw [b]), setTx_frame s c _⟩
    cases a
    exact setTx_link _ _ _

/-- An open confirmed (R13, R49, R86). -/
theorem openConfirmed_spec (s : State) (p : Pos) (h : (s.record p).state = .opening) :
    (s.openConfirmed p).record p =
      { s.record p with state := .probation, probation := some s.params.tPROB } ∧
    s.OtherRecords (s.openConfirmed p) p ∧ s.Raises (s.openConfirmed p) [.switchDone] ∧
    (∀ ch, (s.record p).channel = some ch →
      (s.openConfirmed p).link ch = { s.link ch with tx := { (s.link ch).tx with faultReset := true } }) ∧
    (∀ ch, (s.record p).channel ≠ some ch → (s.openConfirmed p).link ch = s.link ch) ∧
    s.ChangesOnly (s.openConfirmed p) [.roster, .links, .port] := by
  unfold State.openConfirmed
  dsimp only
  rw [if_pos h]
  obtain ⟨v, hv⟩ : ∃ v, v = s.setRecord p ((s.record p).openConfirmed s.params.tPROB) := ⟨_, rfl⟩
  rw [← hv]
  have hr : v.record p = { s.record p with state := .probation, probation := some s.params.tPROB } := by
    rw [hv, State.record_setRecord_same]
    unfold Record.openConfirmed
    rw [if_pos h]
  have ho : s.OtherRecords v p := fun q hq => by rw [hv, State.record_setRecord_ne _ _ _ _ hq]
  have hf : s.ChangesOnly v [.roster] := by
    rw [hv]
    exact setRecord_frame s p _
  have hc : (v.record p).channel = (s.record p).channel := by rw [hr]
  obtain ⟨h1, h2, h3⟩ := setFaultReset_spec v p
  rw [hc] at h1 h2
  have hl : ∀ ch, v.link ch = s.link ch := State.link_congr (hf .links (by decide))
  refine ⟨?_, fun q hq => ?_, State.Raises.before ?_ (setFlag_raises _ _), fun ch a => ?_, fun ch a => ?_,
    ((hf.more (by decide)).trans (h3.more (by decide))).trans ((setFlag_frame _ _).more (by decide))⟩
  · rw [State.setFlag_record, State.record_congr (h3 .roster (by decide)), hr]
  · rw [State.setFlag_record, State.record_congr (h3 .roster (by decide)), ho q hq]
  · rw [h3 .port (by decide), hf .port (by decide)]
  · rw [← hl ch]
    exact h1 ch a
  · rw [← hl ch]
    exact h2 ch a

/-! ## One read -/

/-- A report of a contact that is no surprise changes nothing (R58). -/
theorem reportContact_expected {s : State} {p : Pos} {closed : Bool}
    (h1 : closed = true → (s.record p).state.active = false)
    (h2 : closed = false → (s.record p).state ≠ .bypassed ∧ (s.record p).state ≠ .quarantined) :
    s.reportContact p closed = s := by
  unfold State.reportContact
  cases closed with
  | true =>
    rw [if_pos rfl, h1 rfl]
    rfl
  | false =>
    rw [if_neg (by decide), if_neg]
    rintro (a | a)
    · exact (h2 rfl).1 a
    · exact (h2 rfl).2 a

/-- A confirmation that does not fall due changes nothing (R72). -/
theorem confirm_none {s : State} {p : Pos} {closed : Bool}
    (h : ¬∃ kind ended recovered, s.matrix.unit = .settling p kind ended recovered ∧
      (s.time - ended).toNat ≤ 1000 * s.params.tBC ∧ (kind = .toClose ↔ closed = true)) :
    s.confirm p closed = s := by
  unfold State.confirm
  cases hu : s.matrix.unit with
  | settling q kind ended recovered =>
    dsimp only
    split
    · rename_i hq
      obtain ⟨rfl, hq⟩ := hq
      have hb : (s.time - ended).toNat ≤ 1000 * s.params.tBC := by
        unfold elapsed millis at hq
        omega
      cases kind <;> cases closed <;>
        first | rfl | exact absurd ⟨_, _, _, hu, hb, by simp⟩ h
    · rfl
  | _ => rfl

theorem confirm_close {s : State} {p : Pos} {ended : Stamp} {recovered : Bool}
    (hu : s.matrix.unit = .settling p .toClose ended recovered)
    (hd : (s.time - ended).toNat ≤ 1000 * s.params.tBC) :
    s.confirm p true = ((s.closeConfirmed p).setUnit (concluded ended recovered)).exitTest := by
  unfold State.confirm
  rw [hu]
  dsimp only
  rw [if_pos ⟨rfl, by unfold elapsed millis; omega⟩]

theorem confirm_open {s : State} {p : Pos} {ended : Stamp} {recovered : Bool}
    (hu : s.matrix.unit = .settling p .toOpen ended recovered)
    (hd : (s.time - ended).toNat ≤ 1000 * s.params.tBC) :
    s.confirm p false = (s.openConfirmed p).setUnit (concluded ended recovered) := by
  unfold State.confirm
  rw [hu]
  dsimp only
  rw [if_pos ⟨rfl, by unfold elapsed millis; omega⟩]

/-- A settled change outside CONFIG that confirms no pulse is judged as a report (R58, R72). -/
theorem settledChange_reported (s : State) (p : Pos) (closed : Bool) (hc : s.engine.state ≠ .config)
    (h : ¬∃ kind ended recovered, s.matrix.unit = .settling p kind ended recovered ∧
      (s.time - ended).toNat ≤ 1000 * s.params.tBC ∧ (kind = .toClose ↔ closed = true)) :
    s.settledChange p closed =
      (s.setRecord p { s.record p with contact := contactOf closed }).reportContact p closed := by
  unfold State.settledChange
  dsimp only
  rw [confirm_none (s := s.setRecord p _) h]
  exact if_neg hc

/-- The debounce state takes a read (R71). -/
theorem readContact_eq (s : State) (p : Pos) (closed : Bool) :
    let s1 := s.setMatrix { s.matrix with
      debounce := s.matrix.debounce.set p (s.matrix.debounce[p].afterRead closed) }
    (s.Settles p closed → s.readContact p closed = s1.settledChange p closed) ∧
    (¬s.Settles p closed → s.readContact p closed = s1) := by
  have hcont : contactOf closed = if closed = true then Contact.closed else .opened := rfl
  unfold State.readContact State.setDebounce State.Settles Debounce.afterRead
  dsimp only
  have hd : s.debounce p = s.matrix.debounce[p] := rfl
  rw [hd, ← hcont]
  generalize hg : s.matrix.debounce[p] = d
  by_cases h1 : d.candidate = some closed
  · rw [if_pos h1]
    by_cases h2 : 3 ≤ d.agree
    · have hset : s.setMatrix { s.matrix with debounce := s.matrix.debounce.set p d } = s := by
        have : s.matrix.debounce.set p d = s.matrix.debounce := by
          rw [← hg]
          exact Vector.set_getElem_self _
        rw [this]
        rfl
      rw [if_pos h1, if_pos (show Config.debounceReads ≤ d.agree from h2), if_pos h2]
      exact ⟨fun a => by omega, fun _ => hset.symm⟩
    · rw [if_pos h1, if_neg (show ¬Config.debounceReads ≤ d.agree from h2), if_neg h2]
      constructor
      · rintro ⟨-, a, b⟩
        rw [if_pos ⟨by rw [a]; rfl, b⟩]
      · intro a
        rw [if_neg]
        rintro ⟨b, c⟩
        refine a ⟨h1, ?_, c⟩
        have : d.agree + 1 = 3 := b
        omega
  · rw [if_neg h1]
    rw [if_neg h1]
    exact ⟨fun a => absurd a.1 h1, fun _ => rfl⟩

/-- A settled change outside CONFIG (R58, R72, R84, R86). -/
theorem settledChange_spec (s : State) (p : Pos) (closed : Bool) (hc : s.engine.state ≠ .config) :
    let r : Record := { s.record p with contact := contactOf closed }
    let completed : RecordState :=
      if s.params.qLim ≤ min 15 (r.tally + 1) ∨ r.probation ≠ none then .quarantined else .bypassed
    let confirms := ∃ kind ended recovered, s.matrix.unit = .settling p kind ended recovered ∧
      (s.time - ended).toNat ≤ 1000 * s.params.tBC ∧ (kind = .toClose ↔ closed = true)
    let notice := s.engine.state = .publishing ∨ s.engine.state = .verifying ∨
      s.engine.state = .proving ∨ s.engine.state = .running
    let t := s.settledChange p closed
    ∃ u : State, s.OtherRecords u p ∧
      u.matrix = { s.matrix with orders := u.matrix.orders, unit := u.matrix.unit } ∧
      (∀ ended recovered, s.matrix.unit = .settling p .toClose ended recovered →
        (s.time - ended).toNat ≤ 1000 * s.params.tBC → r.state = .closing → closed = true →
        u.record p = { r with
          state := completed, tally := min 15 (r.tally + 1), probation := none, prior := none } ∧
        u.matrix.unit = (if recovered = true then .idle else .recovering ended) ∧
        u.matrix.orders = s.matrix.orders ∧ s.Raises u [.switchDone] ∧
        s.ChangesOnly u [.matrix, .roster, .port] ∧ u.ExitTests t) ∧
      (∀ ended recovered, s.matrix.unit = .settling p .toOpen ended recovered →
        (s.time - ended).toNat ≤ 1000 * s.params.tBC → r.state = .opening → closed = false →
        u.record p = { r with state := .probation, probation := some s.params.tPROB } ∧
        u.matrix.unit = (if recovered = true then .idle else .recovering ended) ∧
        u.matrix.orders = s.matrix.orders ∧ s.Raises u [.switchDone] ∧
        (∀ ch, r.channel = some ch →
          u.link ch = { s.link ch with tx := { (s.link ch).tx with faultReset := true } }) ∧
        (∀ ch, r.channel ≠ some ch → u.link ch = s.link ch) ∧
        s.ChangesOnly u [.matrix, .roster, .links, .port] ∧ t = u) ∧
      (¬confirms → u.matrix.unit = s.matrix.unit ∧
        (r.state.active = true → closed = true →
          u.record p = { r with
            state := completed, tally := min 15 (r.tally + 1), offset := none,
            cause := some .contactClosed, stamp := some s.time, probation := none, prior := none } ∧
          u.matrix.orders = s.matrix.orders ∧ s.Raises u [.faultTaken] ∧
          s.ChangesOnly u [.matrix, .roster, .port] ∧ u.Notified t) ∧
        (r.state = .bypassed → closed = false →
          u.record p = { r with
            state := .faulted, cause := some .contactOpen, stamp := some s.time } ∧
          Entry.Joins
            { pos := p, kind := .toClose, stamp := s.time, holdOff := false, holdOffRun := false,
              hold := false }
            s.matrix.orders u.matrix.orders ∧
          s.Raises u [.faultTaken] ∧ s.ChangesOnly u [.matrix, .roster, .port] ∧
          (notice → u.Notified t) ∧ (¬notice → t = u)) ∧
        (r.state = .quarantined → closed = false →
          u.record p = { r with cause := some .contactOpen, stamp := some s.time } ∧
          u.matrix.orders = s.matrix.orders ∧
          s.Raises u [.faultTaken] ∧ s.ChangesOnly u [.matrix, .roster, .port] ∧
          (notice → u.Notified t) ∧ (¬notice → t = u)) ∧
        ((closed = true → r.state.active = false) →
          (closed = false → r.state ≠ .bypassed ∧ r.state ≠ .quarantined) →
          u.record p = r ∧ u.matrix.orders = s.matrix.orders ∧
          s.ChangesOnly u [.matrix, .roster] ∧ t = u)) := by
  intro r completed confirms notice t
  obtain ⟨v, hv⟩ : ∃ v, v = s.setRecord p r := ⟨_, rfl⟩
  have hvr : v.record p = r := by rw [hv, State.record_setRecord_same]
  have hvo : s.OtherRecords v p := fun q hq => by rw [hv, State.record_setRecord_ne _ _ _ _ hq]
  have hvf : s.ChangesOnly v [.roster] := by
    rw [hv]
    exact setRecord_frame s p _
  have hvm : v.matrix = s.matrix := hvf .matrix (by decide)
  have hve : v.engine = s.engine := hvf .engine (by decide)
  have hvt : v.time = s.time := hvf .time (by decide)
  have hvp : v.params = s.params := hvf .params (by decide)
  have hvport : v.port = s.port := hvf .port (by decide)
  have hvl : ∀ ch, v.link ch = s.link ch := State.link_congr (hvf .links (by decide))
  have hvc : v.engine.state ≠ .config := by rwa [hve]
  by_cases hcon : confirms
  · obtain ⟨kind, ended, recovered, hu, hd, hk⟩ := hcon
    have hcv : ∀ w : State, v.confirm p closed = w → t = if w.engine.state = .config then
        w.setRecord p ((w.record p).follow closed w.params.qLim) else w.reportContact p closed := by
      intro w hw
      rw [← hw, hv]
      rfl
    have hd' : (v.time - ended).toNat ≤ 1000 * v.params.tBC := by rw [hvt, hvp]; exact hd
    have hu' : v.matrix.unit = .settling p kind ended recovered := by rw [hvm]; exact hu
    cases kind with
    | toClose =>
      have hcl : closed = true := hk.mp rfl
      subst hcl
      have hconf := confirm_close hu' hd'
      by_cases hst : r.state = .closing
      · obtain ⟨c1, c2, c3, c4⟩ := closeConfirmed_spec v p (by rw [hvr]; exact hst)
        rw [hvr, hvp] at c1
        obtain ⟨u, hud⟩ : ∃ u, u = (v.closeConfirmed p).setUnit (concluded ended recovered) := ⟨_, rfl⟩
        rw [← hud] at hconf
        have hur : u.record p = { r with
            state := completed, tally := min 15 (r.tally + 1), probation := none, prior := none } := by
          rw [hud, State.setUnit_record]
          exact c1
        have hum : u.matrix = { s.matrix with unit := concluded ended recovered } := by
          rw [hud, ← hvm, ← c4 .matrix (by decide)]
          rfl
        have huf : s.ChangesOnly u [.matrix, .roster, .port] := by
          rw [hud]
          exact ((hvf.more (by decide)).trans (c4.more (by decide))).trans ((setUnit_frame _ _).more (by decide))
        have huc : u.engine.state ≠ .config := by rw [huf .engine (by decide)]; exact hc
        obtain ⟨x1, x2⟩ := exitTest_leaves u huc
        have hin : (u.record p).state.active = false := by
          rw [hur]
          show completed.active = false
          unfold completed
          split <;> rfl
        have ht : t = u.exitTest := by
          rw [hcv _ hconf, if_neg x1]
          exact reportContact_expected (fun _ => by rw [x2 p hin]; exact hin) nofun
        refine ⟨u, fun q hq => ?_, by rw [hum], ?_, ?_, fun h => absurd ⟨_, _, _, hu, hd, by simp⟩ h⟩
        · rw [hud, State.setUnit_record, c2 q hq, hvo q hq]
        · intro e' r' he' _ _ _
          rw [hu] at he'
          cases he'
          refine ⟨hur, by rw [hum]; rfl, by rw [hum], ?_, huf, ?_⟩
          · rw [hud]
            exact (State.Raises.before hvport c3).after rfl
          · rw [ht]
            exact exitTest_tests u
        · intro e' r' he'
          rw [hu] at he'
          cases he'
      · refine ⟨s, fun _ _ => rfl, rfl, fun _ _ _ _ h => absurd h hst, ?_,
          fun h => absurd ⟨_, _, _, hu, hd, by simp⟩ h⟩
        intro e' r' he'
        rw [hu] at he'
        cases he'
    | toOpen =>
      have hcl : closed = false := by
        cases closed with
        | false => rfl
        | true => exact absurd (hk.mpr rfl) nofun
      subst hcl
      have hconf := confirm_open hu' hd'
      by_cases hst : r.state = .opening
      · obtain ⟨c1, c2, c3, c4, c5, c6⟩ := openConfirmed_spec v p (by rw [hvr]; exact hst)
        rw [hvr] at c1 c4 c5
        rw [hvp] at c1
        obtain ⟨u, hud⟩ : ∃ u, u = (v.openConfirmed p).setUnit (concluded ended recovered) := ⟨_, rfl⟩
        rw [← hud] at hconf
        have hur : u.record p = { r with state := .probation, probation := some s.params.tPROB } := by
          rw [hud, State.setUnit_record]
          exact c1
        have hum : u.matrix = { s.matrix with unit := concluded ended recovered } := by
          rw [hud, ← hvm, ← c6 .matrix (by decide)]
          rfl
        have huf : s.ChangesOnly u [.matrix, .roster, .links, .port] := by
          rw [hud]
          exact ((hvf.more (by decide)).trans (c6.more (by decide))).trans ((setUnit_frame _ _).more (by decide))
        have huc : u.engine.state ≠ .config := by rw [huf .engine (by decide)]; exact hc
        have ht : t = u := by
          rw [hcv _ hconf, if_neg huc]
          exact reportContact_expected nofun fun _ => by rw [hur]; exact ⟨nofun, nofun⟩
        refine ⟨u, fun q hq => ?_, by rw [hum], ?_, ?_, fun h => absurd ⟨_, _, _, hu, hd, by simp⟩ h⟩
        · rw [hud, State.setUnit_record, c2 q hq, hvo q hq]
        · intro e' r' he'
          rw [hu] at he'
          cases he'
        · intro e' r' he' _ _ _
          rw [hu] at he'
          cases he'
          refine ⟨hur, by rw [hum]; rfl, by rw [hum], ?_, fun ch a => ?_, fun ch a => ?_, huf, ht⟩
          · rw [hud]
            exact (State.Raises.before hvport c3).after rfl
          · rw [← hvl ch, hud]
            exact c4 ch a
          · rw [← hvl ch, hud]
            exact c5 ch a
      · refine ⟨s, fun _ _ => rfl, rfl, ?_, fun _ _ _ _ h => absurd h hst,
          fun h => absurd ⟨_, _, _, hu, hd, by simp⟩ h⟩
        intro e' r' he'
        rw [hu] at he'
        cases he'
  · have ht : t = v.reportContact p closed := by
      rw [hv]
      exact settledChange_reported s p closed hc hcon
    have no1 : ∀ ended recovered, s.matrix.unit = .settling p .toClose ended recovered →
        (s.time - ended).toNat ≤ 1000 * s.params.tBC → closed = true → False :=
      fun e r' a b c => hcon ⟨_, e, r', a, b, by simp [c]⟩
    have no2 : ∀ ended recovered, s.matrix.unit = .settling p .toOpen ended recovered →
        (s.time - ended).toNat ≤ 1000 * s.params.tBC → closed = false → False :=
      fun e r' a b c => hcon ⟨_, e, r', a, b, by simp [c]⟩
    by_cases hexp : (closed = true → r.state.active = false) ∧
        (closed = false → r.state ≠ .bypassed ∧ r.state ≠ .quarantined)
    · have hrep : v.reportContact p closed = v :=
        reportContact_expected (by rw [hvr]; exact hexp.1) (by rw [hvr]; exact hexp.2)
      refine ⟨v, hvo, by rw [hvm], fun e r' a b _ c => (no1 e r' a b c).elim,
        fun e r' a b _ c => (no2 e r' a b c).elim, fun _ => ⟨by rw [hvm], fun a b => ?_, fun a b => ?_,
          fun a b => ?_, fun _ _ => ⟨hvr, by rw [hvm], hvf.more (by decide), by rw [ht, hrep]⟩⟩⟩
      · rw [hexp.1 b] at a
        cases a
      · exact absurd a (hexp.2 b).1
      · exact absurd a (hexp.2 b).2
    · cases closed with
      | true =>
        have hact : r.state.active = true := by
          cases h : r.state.active with
          | true => rfl
          | false => exact absurd ⟨fun _ => h, nofun⟩ hexp
        obtain ⟨u, u1, u2, u3, u4, u5, u6⟩ := takeContactClosed_spec v p (by rw [hvr]; rfl)
        rw [hvr, hvp, hvt] at u2
        have hrep : v.reportContact p true = v.takeFault p .contactClosed := by
          unfold State.reportContact
          rw [if_pos rfl, hvr, if_pos hact]
        refine ⟨u, fun q hq => by rw [u1 q hq, hvo q hq], by rw [u3, hvm],
          fun e r' a b _ c => (no1 e r' a b c).elim, fun e r' a b _ c => (no2 e r' a b c).elim,
          fun _ => ⟨by rw [u3, hvm], fun _ _ => ⟨u2, by rw [u3, hvm], State.Raises.before hvport u4,
            (hvf.more (by decide)).trans (u5.more (by decide)), by rw [ht, hrep]; exact u6⟩, nofun, nofun,
            fun a _ => ?_⟩⟩
        rw [a rfl] at hact
        cases hact
      | false =>
        have hout : r.state = .bypassed ∨ r.state = .quarantined := by
          by_contra h
          exact hexp ⟨nofun, fun _ => ⟨fun a => h (.inl a), fun a => h (.inr a)⟩⟩
        obtain ⟨u1, u2, u3, u4, u5, u6⟩ := applyContactOpen_spec v p
        obtain ⟨u7, u8⟩ := takeContactOpen_spec v p
        generalize v.applyContactOpen p v.time = u at u1 u2 u3 u4 u5 u6 u7 u8
        rw [hvr, hvt] at u2
        rw [hvr] at u3 u4
        rw [hve] at u7 u8
        have hrep : v.reportContact p false = v.takeContactOpen p := by
          unfold State.reportContact
          rw [if_neg (by decide), hvr, if_pos hout]
        have hx : u.matrix = { s.matrix with orders := u.matrix.orders } := by
          by_cases hb : r.state = .bypassed
          · rw [u4 hb, hvm]
          · rw [u3 hb, hvm]
        have hxu : u.matrix.unit = s.matrix.unit := by rw [hx]
        have hframe : s.ChangesOnly u [.matrix, .roster, .port] :=
          (hvf.more (by decide)).trans (u6.more (by decide))
        have hraise : s.Raises u [.faultTaken] := State.Raises.before hvport u5
        rw [← hrep, ← ht] at u7 u8
        refine ⟨u, fun q hq => by rw [u1 q hq, hvo q hq], by rw [hx],
          fun e r' a b _ c => (no1 e r' a b c).elim, fun e r' a b _ c => (no2 e r' a b c).elim,
          fun _ => ⟨hxu, nofun, fun a _ => ⟨?_, ?_, hraise, hframe, u7, u8⟩,
            fun a _ => ⟨?_, ?_, hraise, hframe, u7, u8⟩, fun _ a => ?_⟩⟩
        · rw [u2]
          unfold Record.contactOpenTaken
          rw [if_pos a]
        · rw [u4 a, hvm, hvt]
          exact insertEntry_joins _ _
        · rw [u2]
          unfold Record.contactOpenTaken
          rw [if_neg (by rw [a]; exact nofun)]
        · rw [u3 (by rw [a]; exact nofun), hvm]
        · rcases hout with h | h
          · exact absurd h (a rfl).1
          · exact absurd h (a rfl).2

/-- One read outside CONFIG, whole (R71, R72, R58, R84, R86). -/
theorem readContact_reads (s : State) (p : Pos) (closed : Bool) (hc : s.engine.state ≠ .config) :
    s.Reads (s.readContact p closed) p closed := by
  obtain ⟨hy, hn⟩ := readContact_eq s p closed
  unfold State.Reads
  dsimp only at hy hn ⊢
  refine ⟨hn, fun hset => ?_⟩
  rw [hy hset]
  obtain ⟨m, hm⟩ : ∃ m : Matrix, m = { s.matrix with
    debounce := s.matrix.debounce.set p (s.matrix.debounce[p].afterRead closed) } := ⟨_, rfl⟩
  rw [← hm]
  have hmu : m.unit = s.matrix.unit := by rw [hm]
  have hmo : m.orders = s.matrix.orders := by rw [hm]
  obtain ⟨u, u1, u2, u3, u4, u5⟩ := settledChange_spec (s.setMatrix m) p closed hc
  have hf : s.ChangesOnly (s.setMatrix m) [.matrix, .roster, .port] := (setMatrix_frame s m).more (by decide)
  simp only [State.setMatrix_matrix, State.setMatrix_record, State.setMatrix_link, hmu, hmo] at u2 u3 u4 u5
  refine ⟨u, u1, ?_, ?_, ?_, ?_⟩
  · rw [u2, hm]
  · intro e r a b c d
    obtain ⟨h1, h2, h3, h4, h5, h6⟩ := u3 e r a b c d
    exact ⟨h1, h2, h3, State.Raises.before rfl h4, hf.trans h5, h6⟩
  · intro e r a b c d
    obtain ⟨h1, h2, h3, h4, h5, h6, h7, h8⟩ := u4 e r a b c d
    exact ⟨h1, h2, h3, State.Raises.before rfl h4, h5, h6, (hf.more (by decide)).trans h7, h8⟩
  · intro h
    obtain ⟨h1, h2, h3, h4, h5⟩ := u5 h
    refine ⟨h1, fun a b => ?_, fun a b => ?_, fun a b => ?_, fun a b => ?_⟩
    · obtain ⟨k1, k2, k3, k4, k5⟩ := h2 a b
      exact ⟨k1, k2, State.Raises.before rfl k3, hf.trans k4, k5⟩
    · obtain ⟨k1, k2, k3, k4, k5, k6⟩ := h3 a b
      exact ⟨k1, k2, State.Raises.before rfl k3, hf.trans k4, k5, k6⟩
    · obtain ⟨k1, k2, k3, k4, k5, k6⟩ := h4 a b
      exact ⟨k1, k2, State.Raises.before rfl k3, hf.trans k4, k5, k6⟩
    · obtain ⟨k1, k2, k3, k4⟩ := h5 a b
      exact ⟨k1, k2, ((setMatrix_frame s m).more (by decide)).trans k3, k4⟩

/-- No elementary change but a reset leads to CONFIG (R94). -/
theorem Moves.left {s t : State} (h : Moves Grants.none s t) (hc : s.engine.state ≠ .config) :
    t.engine.state ≠ .config := by
  refine h.keeps (P := fun s => s.engine.state ≠ .config) (fun s t hm hs => ?_) hc
  cases hm with
  | aside t h1 h2 h3 h4 h5 h6 => rwa [h4]
  | engine e he => exact he.1.elim (fun a => by rw [State.setEngine_engine, a]; exact hs) id
  | reset m r hr => exact absurd hr Bool.false_ne_true
  | records f _ => rwa [State.mapRecords_engine]
  | commit l _ => rwa [State.commitRoster_engine]
  | _ => exact hs

/-- One read does not lead back to CONFIG. -/
theorem readContact_left (s : State) (p : Pos) (closed : Bool) (hc : s.engine.state ≠ .config) :
    (s.readContact p closed).engine.state ≠ .config :=
  (readContact_moves Grants.none s p closed).left hc

/-! ## Departure from DORMANT -/

/-- One OPEN entry withdrawn (R14). -/
theorem openWithdrawn_spec (s : State) (q : Pos) :
    let v := s.openWithdrawn q
    s.OtherRecords v q ∧
    ((s.record q).state ≠ .opening → v.record q = s.record q ∧ v.matrix = s.matrix ∧ s.Raises v []) ∧
    ((s.record q).state = .opening → (s.record q).contact ≠ .opened →
      v.record q = { s.record q with state := .bypassed } ∧ v.matrix = s.matrix ∧ s.Raises v []) ∧
    ((s.record q).state = .opening → (s.record q).contact = .opened →
      v.record q = { s.record q with
        state := .faulted, cause := some .contactOpen, stamp := some s.time } ∧
      v.matrix = { s.matrix with
        orders := insertEntry ⟨q, .toClose, s.time, false, false, false⟩ s.matrix.orders } ∧
      s.Raises v [.faultTaken]) ∧
    s.ChangesOnly v [.roster, .matrix, .port] := by
  intro v
  obtain ⟨w, hw⟩ : ∃ w, w = s.setRecord q (s.record q).openEnded := ⟨_, rfl⟩
  have hv : v = if (s.record q).state = .opening ∧ (s.record q).contact = .opened
      then w.applyContactOpen q w.time else w := by
    rw [hw]
    rfl
  have hwo : s.OtherRecords w q := fun p hp => by rw [hw, State.record_setRecord_ne _ _ _ _ hp]
  have hwf : s.ChangesOnly w [.roster] := by
    rw [hw]
    exact setRecord_frame s q _
  have hwr : w.record q = (s.record q).openEnded := by rw [hw, State.record_setRecord_same]
  have hwm : w.matrix = s.matrix := hwf .matrix (by decide)
  have hwt : w.time = s.time := hwf .time (by decide)
  have hwp : w.port = s.port := hwf .port (by decide)
  unfold Record.openEnded at hwr
  by_cases hs : (s.record q).state = .opening
  · rw [if_pos hs] at hwr
    by_cases hc : (s.record q).contact = .opened
    · rw [if_pos ⟨hs, hc⟩] at hv
      obtain ⟨u1, u2, u3, u4, u5, u6⟩ := applyContactOpen_spec w q
      rw [← hv] at u1 u2 u3 u4 u5 u6
      refine ⟨fun p hp => by rw [u1 p hp, hwo p hp], fun a => absurd hs a, fun _ a => absurd hc a,
        fun _ _ => ⟨?_, ?_, State.Raises.before hwp u5⟩, (hwf.more (by decide)).trans u6⟩
      · rw [u2, hwr, hwt]
        rfl
      · rw [u4 (by rw [hwr]), hwm, hwt]
    · rw [if_neg fun a => hc a.2] at hv
      rw [hv]
      exact ⟨hwo, fun a => absurd hs a, fun _ _ => ⟨hwr, hwm, State.Raises.none hwp⟩,
        fun _ a => absurd a hc, hwf.more (by decide)⟩
  · rw [if_neg hs] at hwr
    rw [if_neg fun a => hs a.1] at hv
    rw [hv]
    exact ⟨hwo, fun _ => ⟨hwr, hwm, State.Raises.none hwp⟩, fun a => absurd a hs, fun a => absurd a hs,
      hwf.more (by decide)⟩

/-- The OPENING records of a list of positions are ended, one after another (R14). -/
theorem openWithdrawn_foldl (l : List Pos) (s : State) :
    let t := l.foldl State.openWithdrawn s
    let waiting (p : Pos) : Prop := (s.record p).state = .opening ∧ p ∈ l
    let surprised (p : Pos) : Prop := waiting p ∧ (s.record p).contact = .opened
    let listed (p : Pos) : Entry :=
      { pos := p, kind := .toClose, stamp := s.time, holdOff := false, holdOffRun := false, hold := false }
    (∀ p, ¬waiting p → t.record p = s.record p) ∧
    (∀ p, waiting p → (s.record p).contact ≠ .opened →
      t.record p = { s.record p with state := .bypassed }) ∧
    (∀ p, surprised p → t.record p = { s.record p with
      state := .faulted, cause := some .contactOpen, stamp := some s.time }) ∧
    (∀ e, e ∈ t.matrix.orders ↔ e ∈ s.matrix.orders ∨ ∃ p, surprised p ∧ e = listed p) ∧
    t.matrix = { s.matrix with orders := t.matrix.orders } ∧
    ((∃ p, surprised p) → s.Raises t [.faultTaken]) ∧ ((∀ p, ¬surprised p) → s.Raises t []) ∧
    s.ChangesOnly t [.roster, .matrix, .port] := by
  induction l generalizing s with
  | nil =>
    refine ⟨fun _ _ => rfl, fun p a => (nomatch a.2), fun p a => (nomatch a.1.2), fun e => ?_, rfl,
      fun ⟨p, a⟩ => (nomatch a.1.2), fun _ => State.Raises.none rfl, .refl s _⟩
    exact ⟨.inl, fun a => a.elim id fun ⟨p, b, _⟩ => (nomatch b.1.2)⟩
  | cons q l ih =>
    rw [List.foldl_cons]
    obtain ⟨v1, v2, v3, v4, v5⟩ := openWithdrawn_spec s q
    obtain ⟨i1, i2, i3, i4, i5, i6, i7, i8⟩ := ih (s.openWithdrawn q)
    generalize s.openWithdrawn q = v at v1 v2 v3 v4 v5 i1 i2 i3 i4 i5 i6 i7 i8 ⊢
    generalize l.foldl State.openWithdrawn v = t at i1 i2 i3 i4 i5 i6 i7 i8 ⊢
    intro t' waiting surprised listed
    have hvt : v.time = s.time := v5 .time (by decide)
    have hq : (v.record q).state ≠ .opening := by
      by_cases hs : (s.record q).state = .opening
      · by_cases hc : (s.record q).contact = .opened
        · rw [(v4 hs hc).1]
          exact nofun
        · rw [(v3 hs hc).1]
          exact nofun
      · rw [(v2 hs).1]
        exact hs
    have hw : ∀ p, p ≠ q → ((v.record p).state = .opening ∧ p ∈ l ↔ waiting p) := by
      intro p hp
      rw [v1 p hp]
      simp only [waiting, List.mem_cons, hp, false_or]
    have hsur : ∀ p, surprised p ↔ (p = q ∧ (s.record q).state = .opening ∧ (s.record q).contact = .opened) ∨
        (((v.record p).state = .opening ∧ p ∈ l) ∧ (v.record p).contact = .opened) := by
      intro p
      by_cases hp : p = q
      · subst hp
        constructor
        · rintro ⟨⟨a, -⟩, b⟩
          exact .inl ⟨rfl, a, b⟩
        · rintro (⟨-, a, b⟩ | ⟨⟨a, -⟩, -⟩)
          · exact ⟨⟨a, List.mem_cons_self⟩, b⟩
          · exact absurd a hq
      · rw [hw p hp, v1 p hp]
        exact ⟨.inr, fun a => a.elim (fun b => absurd b.1 hp) id⟩
    have hvm : v.matrix = { s.matrix with orders := v.matrix.orders } := by
      by_cases hs : (s.record q).state = .opening
      · by_cases hc : (s.record q).contact = .opened
        · rw [(v4 hs hc).2.1]
        · rw [(v3 hs hc).2.1]
      · rw [(v2 hs).2.1]
    have hvo : ∀ e, e ∈ v.matrix.orders ↔ e ∈ s.matrix.orders ∨
        ((s.record q).state = .opening ∧ (s.record q).contact = .opened) ∧ e = listed q := by
      intro e
      by_cases hs : (s.record q).state = .opening
      · by_cases hc : (s.record q).contact = .opened
        · rw [(v4 hs hc).2.1, mem_insertEntry]
          simp only [hs, hc, and_self, true_and]
          exact or_comm
        · rw [(v3 hs hc).2.1]
          simp only [hc, and_false, false_and, or_false]
      · rw [(v2 hs).2.1]
        simp only [hs, false_and, or_false]
    have hvr : ¬((s.record q).state = .opening ∧ (s.record q).contact = .opened) → s.Raises v [] := by
      intro h
      by_cases hs : (s.record q).state = .opening
      · exact (v3 hs fun hc => h ⟨hs, hc⟩).2.2
      · exact (v2 hs).2.2
    refine ⟨fun p hp => ?_, fun p hp hc => ?_, fun p hp => ?_, fun e => ?_, by rw [i5, hvm], ?_, fun h => ?_,
      v5.trans i8⟩
    · by_cases hpq : p = q
      · subst hpq
        have hs : (s.record p).state ≠ .opening := fun a => hp ⟨a, List.mem_cons_self⟩
        rw [i1 p fun a => hq a.1, (v2 hs).1]
      · rw [i1 p fun a => hp ((hw p hpq).mp a), v1 p hpq]
    · by_cases hpq : p = q
      · subst hpq
        rw [i1 p fun a => hq a.1, (v3 hp.1 hc).1]
      · rw [i2 p ((hw p hpq).mpr hp) (by rw [v1 p hpq]; exact hc), v1 p hpq]
    · by_cases hpq : p = q
      · subst hpq
        rw [i1 p fun a => hq a.1, (v4 hp.1.1 hp.2).1]
      · rw [i3 p ⟨(hw p hpq).mpr hp.1, by rw [v1 p hpq]; exact hp.2⟩, v1 p hpq, hvt]
    · rw [i4 e, hvo e, hvt]
      constructor
      · rintro ((a | ⟨a, b⟩) | ⟨p, a, b⟩)
        · exact .inl a
        · exact .inr ⟨q, (hsur q).mpr (.inl ⟨rfl, a⟩), b⟩
        · exact .inr ⟨p, (hsur p).mpr (.inr a), b⟩
      · rintro (a | ⟨p, a, b⟩)
        · exact .inl (.inl a)
        · rcases (hsur p).mp a with ⟨rfl, c⟩ | c
          · exact .inl (.inr ⟨c, b⟩)
          · exact .inr ⟨p, c, b⟩
    · rintro ⟨p, hp⟩
      by_cases hx : (s.record q).state = .opening ∧ (s.record q).contact = .opened
      · have h1 := (v4 hx.1 hx.2).2.2
        by_cases hy : ∃ p, ((v.record p).state = .opening ∧ p ∈ l) ∧ (v.record p).contact = .opened
        · exact (h1.trans (i6 hy)).same fun f => by cases f <;> rfl
        · exact (h1.trans (i7 fun p a => hy ⟨p, a⟩)).same fun f => by cases f <;> rfl
      · rcases (hsur p).mp hp with ⟨rfl, c⟩ | c
        · exact absurd c hx
        · exact (hvr hx).trans (i6 ⟨p, c⟩)
    · exact (hvr fun a => h q ((hsur q).mpr (.inl ⟨rfl, a⟩))).trans
        (i7 fun p a => h p ((hsur p).mpr (.inr a)))

/-- Every waiting OPEN entry withdrawn (R78, R14). -/
theorem withdrawOpens_withdraws (s : State) :
    s.Withdraws s.withdrawOpens [] ∧ s.ChangesOnly s.withdrawOpens [.roster, .matrix, .port] := by
  unfold State.withdrawOpens
  dsimp only
  obtain ⟨w, hw⟩ : ∃ w, w = s.setOrders (s.matrix.orders.filter fun e => e.kind == .toClose) := ⟨_, rfl⟩
  rw [← hw]
  have hfold : ∀ l : List Entry, l.foldl (fun t e => t.openWithdrawn e.pos) w =
      (l.map fun e => e.pos).foldl State.openWithdrawn w := fun l => by rw [List.foldl_map]
  rw [hfold]
  have hmem : ∀ p, p ∈ (s.matrix.orders.filter fun e => e.kind == .toOpen).map (fun e => e.pos) ↔
      ∃ e ∈ s.matrix.orders, e.kind = .toOpen ∧ e.pos = p := by
    intro p
    simp only [List.mem_map, List.mem_filter, beq_iff_eq, and_assoc]
  have hwr : ∀ p, w.record p = s.record p := fun p => by rw [hw, State.setOrders_record]
  have hwf : s.ChangesOnly w [.matrix] := by
    rw [hw]
    exact setOrders_frame s _
  have hwt : w.time = s.time := hwf .time (by decide)
  have hwp : w.port = s.port := hwf .port (by decide)
  obtain ⟨i1, i2, i3, i4, i5, i6, i7, i8⟩ := openWithdrawn_foldl
    ((s.matrix.orders.filter fun e => e.kind == .toOpen).map fun e => e.pos) w
  generalize List.foldl State.openWithdrawn w _ = t at i1 i2 i3 i4 i5 i6 i7 i8 ⊢
  dsimp only at i1 i2 i3 i4 i5 i6 i7
  simp only [hwr, hmem, hwt] at i1 i2 i3 i4 i6 i7
  refine ⟨⟨i1, i2, i3, fun e => ?_, ?_, fun h => State.Raises.before hwp (i6 h),
    fun h => State.Raises.before hwp (i7 h)⟩, (hwf.more (by decide)).trans i8⟩
  · rw [i4 e, hw]
    refine or_congr ?_ Iff.rfl
    show e ∈ s.matrix.orders.filter _ ↔ _
    simp only [List.mem_filter, beq_iff_eq]
  · rw [i5, hw]
    rfl

/-- A withdrawal between changes that touch neither records nor the matrix. -/
theorem State.Withdraws.within {s u v t : State} {l l1 l2 : List Flag} (hsu : s.Raises u l1)
    (hf : s.ChangesOnly u [.engine, .publisher, .port, .lines]) (h : u.Withdraws v []) (hvt : v.Raises t l2)
    (hg : v.ChangesOnly t [.engine, .publisher, .port])
    (hl : ∀ f, (l1 ++ l2).contains f = l.contains f) : s.Withdraws t l := by
  obtain ⟨h1, h2, h3, h4, h5, h6, h7⟩ := h
  have hr : ∀ p, u.record p = s.record p := State.record_congr (hf .roster (by decide))
  have hm : u.matrix = s.matrix := hf .matrix (by decide)
  have ht : u.time = s.time := hf .time (by decide)
  have hr' : ∀ p, t.record p = v.record p := State.record_congr (hg .roster (by decide))
  have hm' : t.matrix = v.matrix := hg .matrix (by decide)
  simp only [hr, hm, ht] at h1 h2 h3 h4 h5 h6 h7
  refine ⟨fun p a => by rw [hr', h1 p a], fun p a b => by rw [hr', h2 p a b], fun p a => by rw [hr', h3 p a],
    fun e => by rw [hm', h4 e], by rw [hm', h5], fun a => ?_, fun a => ?_⟩
  · refine ((hsu.trans (h6 a)).trans hvt).same fun f => ?_
    rw [List.contains_cons, ← hl f]
    simp only [List.contains_append, List.contains_cons, List.contains_nil, Bool.or_false]
    cases l1.contains f <;> cases f == Flag.faultTaken <;> rfl
  · refine ((hsu.trans (h7 a)).trans hvt).same fun f => ?_
    rw [List.append_nil, ← hl f]

/-- Leaving DORMANT (R78, R93). -/
theorem changeState_withdraws (s : State) (new : EngineState) (h : s.engine.state = .dormant) :
    ∃ u : State, s.Raises u [.stateChange] ∧ s.ChangesOnly u [.engine, .publisher, .port] ∧
      u.Withdraws (s.changeState new) [] ∧ u.ChangesOnly (s.changeState new) [.roster, .matrix, .port] := by
  refine ⟨((s.setEngine (s.engine.enter new)).setPublisher s.publisher.stopped).setFlag .stateChange,
    State.Raises.before rfl (setFlag_raises _ _),
    (((setEngine_frame s _).more (by decide)).trans ((setPublisher_frame _ _).more (by decide))).trans
      ((setFlag_frame _ _).more (by decide)), ?_⟩
  unfold State.changeState
  dsimp only
  rw [if_pos h]
  exact withdrawOpens_withdraws _

/-- A lockout request in DORMANT (R78, R113). -/
theorem lockout_dormant (s : State) (c : LockoutCause) (h : s.engine.state = .dormant) :
    s.LocksOutOfDormant (s.lockout c) c := by
  have hl : s.engine.state ≠ .lockout := by rw [h]; exact nofun
  refine ⟨?_, lockout_publisher s c hl, ?_⟩
  · rw [lockout_engine s c hl, endPass_passEnded]
    rfl
  obtain ⟨w, hw⟩ : ∃ w, w = s.endPass .endedByLockout := ⟨_, rfl⟩
  have hwf : s.ChangesOnly w [.engine] := by
    rw [hw]
    exact endPass_frame s _
  obtain ⟨u, u1, u2, u3, u4⟩ := changeState_withdraws w .lockout (by rw [hw, endPass_state]; exact h)
  have hx : s.lockout c = ((w.changeState .lockout).setEngine
      { (w.changeState .lockout).engine with cause := some c }).setFlag .lockedOut := by
    unfold State.lockout
    rw [if_neg hl, ← hw]
  rw [hx]
  generalize w.changeState .lockout = v at u3 u4 ⊢
  have hg : v.ChangesOnly ((v.setEngine { v.engine with cause := some c }).setFlag .lockedOut)
      [.engine, .publisher, .port] :=
    ((setEngine_frame v _).more (by decide)).trans ((setFlag_frame _ _).more (by decide))
  have hu : s.ChangesOnly u [.engine, .publisher, .port] := (hwf.more (by decide)).trans u2
  refine ⟨u3.within (State.Raises.before (hwf .port (by decide)) u1) (hu.more (by decide))
    (State.Raises.before rfl (setFlag_raises _ _)) hg (fun f => by cases f <;> rfl), ?_⟩
  exact ((hu.more (by decide)).trans (u4.more (by decide))).trans (hg.more (by decide))

end Sys2Proof.Machine
end

