-- ==== Sys2Proof/WellFormed.lean ====
section
/-! DEFINITION. Which terms of `Instr` describe something that can arrive at the part. The operand
types already bound positions, channels, codes and field widths; what is left is the form of the line
words: a word starts with a low start bit (R31, R201), a word that interrupts a frame carries marker
1 (R32) and a stray continuation word carries marker 0 (R33). Values of request arguments outside
their valid ranges are well formed: the owning rule answers them (R20). -/

namespace Sys2Proof

/-- The start bit, bit time 0, is sampled low (R31, R201). R31 begins a word at a falling edge and judges it
by parity and stop bit alone, and leaves open whether a word whose start bit is sampled high can then arrive:
that it cannot is the model's choice (DESIGN CHOICE, assumption 25). `exec` does not read the bit, and no
statement assumes a well-formed command. -/
def startsLow {n : Nat} (w : BitVec n) : Bool := !w.getLsbD 0

/-- The form of the word that a bad-frame event carries (R32, R33). -/
def BadKind.wellFormed : BadKind → Bool
  | .interrupted w => startsLow w && w.getLsbD 9
  | .stray w => startsLow w && !w.getLsbD 9
  | .condemned => true
  | .checksum => true

/-- A command that can arrive at the part. -/
def Instr.wellFormed : Instr → Bool
  | .uplinkWord _ w => startsLow w
  | .adoptionWord w _ => startsLow w
  | .badFrame _ k => k.wellFormed
  | .nop _ | .lookup _ _ | .findChannel _ _ | .findSerial _ _ | .list _ _ | .linkStatus _ _
  | .enrol _ _ _ _ _ | .retire _ _ | .readmit _ _ | .clearTally _ _ _ | .setParam _ _ _
  | .getParam _ _ | .start _ | .loadShift _ _ _ _ _ _ _ _ | .dropShift _ _ _ _
  | .readShift _ _ _ _ _ | .loadScale _ _ _ _ _ | .readScale _ _ _ | .summary _
  | .clearLockout _ | .ack _ _ | .setMask _ _ | .readCause _ | .reset => true
  | .transactionBegin | .transactionEnd _ | .answerReady => true
  | .powerOnReset | .pinReset | .resetEnd | .supplyLoss => true
  | .uplinkFrame _ _ _ _ _ _ | .silenceDetected _ | .downlinkBoundary => true
  | .windowExpiry _ | .groupClose _ => true
  | .scanDwellEnd _ _ _ | .holdOffExpiry _ | .entryGrant | .pulseEnd | .closeTimeout
  | .openTimeout | .recoveryEnd => true
  | .energizedRising | .energizedFalling | .estopNFalling | .brakeSetRising | .brakeSetFalling
  | .brakeWaitExpiry | .graceExpiry | .provenRising | .provingDeadlineExpiry => true
  | .setFrameSent | .adoptionFrame _ | .adoptionDeadlineExpiry | .minimumTimerExpiry
  | .verificationDeadlineExpiry => true
  | .cleanRunSecond | .cleanRunEnd | .runningTimeSecond | .probationComplete _ => true

end Sys2Proof
end

