-- ==== Sys2Proof/Tests/Slice0.lean ====
section
/-! SUPPORT. Tests: what WellFormed refuses, the spec's worked figures, one small step of each family, and for
each statement with hypotheses a concrete state and operands that meet them, clause by clause. -/

namespace Sys2Proof.Tests

open Sys2Proof.Machine

/-! ## Small states -/

/-- The state after reset with the engine in a state. -/
def inState (st : EngineState) : State := State.reset.setEngine { Engine.initial with state := st }

/-- A record of channel 0 and serial tag 7 in a state, with a contact. -/
def cell (st : RecordState) (c : Contact) : Record :=
  { Record.initial with state := st, channel := some 0, serial := some 7, contact := c, cleanRun := some 0 }

/-- The engine in a state, and such a record at A1. -/
def fitted (e : EngineState) (st : RecordState) (c : Contact) : State := (inState e).setRecord 0 (cell st c)

/-- The same a time after reset. -/
def later (n : Nat) (s : State) : State := s.setTime (BitVec.ofNat 32 n)

/-- An entry stamped 0 of A1. -/
def entry (k : SwitchKind) : Entry :=
  { pos := 0, kind := k, stamp := 0, holdOff := false, holdOffRun := false, hold := false }

/-! ## WellFormed refuses ill-formed terms (R31 to R33, R201) -/

theorem test_wellFormed_uplinkWord_start :
    (Instr.uplinkWord 0 0x801#12).wellFormed = false ∧ (Instr.uplinkWord 0 0x800#12).wellFormed = true := by
  decide

theorem test_wellFormed_adoptionWord_start :
    (Instr.adoptionWord 0x201#10 true).wellFormed = false ∧
    (Instr.adoptionWord 0x200#10 true).wellFormed = true := by decide

theorem test_wellFormed_interrupted_start : (Instr.badFrame 0 (.interrupted 0xA01#12)).wellFormed = false := by
  decide

theorem test_wellFormed_interrupted_marker :
    (Instr.badFrame 0 (.interrupted 0x800#12)).wellFormed = false ∧
    (Instr.badFrame 0 (.interrupted 0xA00#12)).wellFormed = true := by decide

theorem test_wellFormed_stray_start : (Instr.badFrame 0 (.stray 0x801#12)).wellFormed = false := by decide

theorem test_wellFormed_stray_marker :
    (Instr.badFrame 0 (.stray 0xA00#12)).wellFormed = false ∧
    (Instr.badFrame 0 (.stray 0x800#12)).wellFormed = true := by decide

/-! ## The spec's worked figures -/

/-- "the CRC-8 of the single byte 0x01 is 0x89" (R202). -/
theorem test_crc8 : crc8 [0x01] = 0x89 := by decide

/-- "the CRC-16 of the single byte 0x01 is 0x7078" (R203). -/
theorem test_crc16 : crc16 [0x01] = 0x7078 := by decide

/-- 0x01 on a cell link with marker 1: start 0, data 1 then zeros, marker 1, even parity 0, stop 1 (R31,
R201). -/
theorem test_lineWord : lineWord 0x01 true = 0xA02#12 := by decide

/-- The worked case of the counts (4, 5, 6): key (6, 5, 4) with F_eq 6666 gives SHIFT, φ_B 14283,
φ_C 24424, S 7803 and R 450 (06_rebalancing_arithmetic, worked cases). -/
theorem test_worked_shift :
    (choose ⟨4, 5, 6⟩ 0 (equalizeRatio 4 6)
      [{ key := ⟨6, 5, 4⟩, hi := 10141, ij := 14283, jh := 11576, fsh := 8214 }]) =
      { policy := .shift, key := some ⟨6, 5, 4⟩, miss := false,
        angles := { ab := 14283, bc := 10141, ca := 11576 }, ratio := 8214 } ∧
    equalizeRatio 4 6 = 6666 ∧ speedLimit 8214 500 = 7803 ∧ rampRate 600 48 = 450 := by decide

/-- R133's table at m_p 6: offsets 0 to 27307 before the stagger, 1820 and 3641 for phases B and C. -/
theorem test_offsets_of_six :
    (List.range 6).map (fun k => beta k 6) = [0, 5461, 10923, 16384, 21845, 27307] ∧
    sigma 1 6 = 1820 ∧ sigma 2 6 = 3641 := by decide

/-- "tVER carried as 50 with tVMIN at 200: the range clamp gives 100, the cross-clamp gives 200, and the
answer is CLAMPED with 200" (R194). -/
theorem test_setParam_tVER : ∃ t, exec (.setParam 9 22 50) State.reset = .next t ∧ t.params.tVER = 200 ∧
    t.port.answer = some { code := .clamped, tag := 9, payload := [0x00, 0x00, 0x00, 0xC8] } :=
  ⟨_, rfl, by decide⟩

/-- "tHO set to 2 with tCC at 5000: tHO is stored as 2, answered DONE, and tCC becomes 2000" (R194). -/
theorem test_setParam_tHO :
    ∃ t, exec (.setParam 9 12 2) (State.reset.setParams { Params.initial with tCC := 5000 }) = .next t ∧
      t.params.tHO = 2 ∧ t.params.tCC = 2000 ∧
      t.port.answer = some { code := .done, tag := 9, payload := [0x00, 0x00, 0x00, 0x02] } :=
  ⟨_, rfl, by decide⟩

/-- START before any record is enrolled is INCOMPLETE (R198). -/
theorem test_start_incomplete : ∃ t, exec (.start 3) State.reset = .next t ∧ t.engine.state = .config ∧
    t.port.answer = some { code := .incomplete, tag := 3, payload := [] } := ⟨_, rfl, by decide⟩

/-- ENROL onto a closed contact in DORMANT with tally 0 gives BYPASSED, code 6 (sequence 3). -/
theorem test_enrol_closed :
    ∃ t, exec (.enrol 1 13 14 60551 0)
        ((inState .dormant).setRecord 13 { Record.initial with contact := .closed }) = .next t ∧
      (t.record 13).state = .bypassed ∧
      t.port.answer = some { code := .done, tag := 1, payload := [0x06] } := ⟨_, rfl, by decide⟩

/-- A close confirmed at tally 0 of a record with probation remaining gives QUARANTINED with tally 1
(sequence 3, at 104 ms). -/
theorem test_close_of_probation :
    ((State.reset.setRecord 13 { cell .closing .closed with probation := some 1200 }).closeCompletion 13).record 13
      = { cell .quarantined .closed with tally := 1 } := by decide

/-- DESAT at a RUNNING engine with MANRIDE high: the count rises to 1, HALTED, the brake wait starts (sequence 1,
at 0). -/
theorem test_fault_notice_halts :
    let s := ((inState .running).setLines { Lines.atRest with manride := Line.settle true })
    (s.faultNotice.engine.state, s.faultNotice.engine.attempts, s.faultNotice.engine.brakeWait) =
      (.halted, 1, some 0) := by decide

/-- With the count at the man-riding limit the same fault locks out with cause ATTEMPTS (sequence 1). -/
theorem test_fault_notice_locks_out :
    let s := ((inState .publishing).setLines { Lines.atRest with manride := Line.settle true })
    let t := (s.setEngine { s.engine with attempts := 1 }).faultNotice
    (t.engine.state, t.engine.cause) = (.lockout, some .attempts) := by decide

/-! ## Witnesses: states and operands that meet the hypotheses of each statement, clause by clause -/

/-- 12.2: header 0xA5 as ten bit times, start low, bit 0 first, stop high. -/
theorem test_modWord : modWord 0xA5 = 0x34A#10 := by decide

/-- R181: STRAY_FRAME set again after the ACK, in the ACK's moment, stands in its answer; set before it, it is
cleared. -/
theorem test_ack_and_flag_at_one_moment :
    ((State.reset.request 5 (requestAck 0x20)).setFlag .strayFrame).tick.port.answer =
      some { code := .done, tag := 5, payload := [0x20] } ∧
    ((State.reset.setFlag .strayFrame).request 5 (requestAck 0x20)).tick.port.answer =
      some { code := .done, tag := 5, payload := [0x00] } := by decide

/-- R53, R63: of two windows stamped alike, A1's expires before A2's. -/
theorem test_windows_expire_in_position_order :
    let s := later 2000 (State.reset.setIntake { Intake.initial with
      provisionals := [{ pos := 1, code := .dcOver, stamp := 0 }, { pos := 0, code := .dcOver, stamp := 0 }] })
    s.windowDue 0 = true ∧ s.windowDue 1 = false ∧ (s.windowExpiry 0).windowDue 1 = true := by decide

/-- R184, R188: a transaction begun in a request reset finds MISO released, and is early from the reset's end, with
the status byte of CONFIG and no answer ready. -/
theorem test_transaction_in_request_reset :
    let s := State.reset.requestReset.transactionBegin
    s.misoBit 0 = none ∧ s.resetEnd.port.state = .early 0 true ∧ s.resetEnd.misoByte 0 = some 0x80 := by decide

theorem witness_StepRunsFrontCommand :
    (State.reset.setPending [.nop 1, .start 2]).pending = .nop 1 :: [.start 2] := rfl

/-- Five samples high on a line that stood low, and four; a boundary given at 49 and a dwell's end at 999 arise not,
and at 50 and 1000 they do. -/
theorem witness_ArisesAtItsTime :
    ({ pin := true, sample := true, count := 5, qualified := some false } : Line).Edges true ∧
    ¬({ pin := true, sample := true, count := 4, qualified := some false } : Line).Edges true ∧
    (later 50 State.reset).Arises .downlinkBoundary ∧ Instr.needsToArise .downlinkBoundary = true ∧
    ¬(later 49 State.reset).Arises .downlinkBoundary ∧ (later 1000 State.reset).HasRun (some 0) 1000 ∧
    ¬(later 999 State.reset).HasRun (later 999 State.reset).matrix.dwell 1000 := by
  refine ⟨?_, ?_, ?_, rfl, ?_, ⟨0, rfl, ?_⟩, fun ⟨t, ht, h⟩ => ?_⟩
  · unfold Line.Edges; decide
  · unfold Line.Edges; decide
  · unfold State.Arises; decide
  · unfold State.Arises; decide
  · decide
  · cases ht
    exact absurd h (by decide)

/-- A boundary due at 50, none at 49; an even and an odd value to come, and the sampling counts 0, 4 and 5. -/
theorem witness_IdlePartCountsAndSamples :
    State.reset.mode = .running ∧ State.reset.pending = [] ∧ (later 50 State.reset).due ≠ [] ∧
    (later 49 State.reset).due = [] ∧ ((later 49 State.reset).time + 1).toNat % 2 = 0 ∧
    State.reset.due = [] ∧ (State.reset.time + 1).toNat % 2 = 1 := by decide

theorem witness_NopGetParamAndReadCauseAnswer :
    State.reset.mode = .running ∧ (25 : Byte).toNat ≤ 25 ∧ 25 < (26 : Byte).toNat := by decide

theorem witness_LookupReturnsWholeRecord :
    (fitted .config .inService .opened).mode = .running ∧
    (fitted .config .inService .opened).record 0 = cell .inService .opened ∧ 30 ≤ (30 : Byte).toNat := by
  decide

/-- Channel 0 and serial tag 7 are held at A1, channel 31 and serial tag 8 nowhere. -/
theorem witness_FindRequestsReadTheIndexes :
    let s := fitted .config .inService .opened
    s.mode = .running ∧ s.Assigned 0 0 ∧ s.Unassigned 31 ∧ 32 ≤ (32 : Byte).toNat ∧
    ((7 : BitVec 32) ≠ 0 ∧ (s.record 0).serial = some 7 ∧ ∀ q, (s.record q).serial = some 7 → q = 0) ∧
    ((8 : BitVec 32) ≠ 0 ∧ ∀ p, (s.record p).serial ≠ some 8) := by
  unfold State.Assigned State.Unassigned; decide

theorem witness_ListReturnsPositionsInState :
    State.reset.mode = .running ∧ (8 : Byte).toNat = RecordState.quarantined.code ∧ 8 < (9 : Byte).toNat := by
  decide

/-- Channel 0 is assigned to A1; channel 31 is not assigned. -/
theorem witness_LinkStatusReturnsTheLink :
    let s := fitted .config .inService .opened
    s.mode = .running ∧ s.link 0 = Link.initial ∧ s.Assigned 0 0 ∧ s.Unassigned 31 ∧
    32 ≤ (32 : Byte).toNat := by
  unfold State.Assigned State.Unassigned; decide

theorem witness_SummaryReportsEngineAndPass :
    State.reset.mode = .running ∧ State.reset.engine = Engine.initial := by decide

/-- Attempts 1, 8, 9 and 15 in both directions; attempts 0 and 16 and direction 2 refused. -/
theorem witness_ReadScaleReturnsTheEntry :
    State.reset.mode = .running ∧
    ((0 : Fin 16).val = 2 * (min (1 : Byte).toNat 8 - 1) + (0 : Byte).toNat ∧
      (15 : Fin 16).val = 2 * (min (8 : Byte).toNat 8 - 1) + (1 : Byte).toNat ∧
      (14 : Fin 16).val = 2 * (min (9 : Byte).toNat 8 - 1) + (0 : Byte).toNat ∧
      (15 : Fin 16).val = 2 * (min (15 : Byte).toNat 8 - 1) + (1 : Byte).toNat ∧ (15 : Byte).toNat ≤ 15) ∧
    ((0 : Byte).toNat = 0 ∧ 15 < (16 : Byte).toNat ∧ 1 < (2 : Byte).toNat) := by decide

/-- A table of one entry. -/
def oneEntry : Tables :=
  { Tables.initial with shift := [{ key := ⟨6, 5, 4⟩, hi := 10141, ij := 14283, jh := 11576, fsh := 8214 }] }

theorem oneEntry_sound : oneEntry.Sound where
  capacity := by decide
  entries := by
    intro e he
    simp [oneEntry] at he
    subst he
    exact ⟨by decide, by decide, by decide⟩
  ascending := by decide
  scale := by decide

/-- By key: invalid, absent and present; by ordinal: 64, 1 (the number of entries), 63 and 0; selector 2. -/
theorem witness_ReadShiftSelectsByKeyOrOrdinal :
    let s := State.reset.setTables oneEntry
    s.mode = .running ∧ s.tables.Sound ∧ ({ h := 4, i := 5, j := 6 } : Key).valid = false ∧
    (({ h := 6, i := 6, j := 5 } : Key).valid = true ∧ ∀ e ∈ s.tables.shift, e.key ≠ ⟨6, 6, 5⟩) ∧
    (({ h := 6, i := 5, j := 4 } : Key).valid = true ∧ ∃ e, s.tables.shift[0]? = some e ∧ e.key = ⟨6, 5, 4⟩) ∧
    63 < (64 : Byte).toNat ∧ ((63 : Byte).toNat ≤ 63 ∧ s.tables.shift.length ≤ (1 : Byte).toNat) ∧
    (∃ e, s.tables.shift[(0 : Byte).toNat]? = some e) ∧ 1 < (2 : Byte).toNat :=
  ⟨rfl, oneEntry_sound, by decide, by decide, ⟨by decide, _, rfl, rfl⟩, by decide, by decide, ⟨_, rfl⟩,
    by decide⟩

theorem witness_AckAndSetMaskDriveAttention : State.reset.mode = .running := rfl

/-- CONFIG and DORMANT, contact CLOSED with a tally below and at Q_LIM, contact OPEN, and a tally above 15; the
bounds of the arguments; an engine in RUNNING; a record that is not EMPTY; a channel and a tag used elsewhere;
an unsettled contact. -/
theorem witness_EnrolSetsTheRecordOrIsRefused :
    (let s (e : EngineState) (c : Contact) : State := (inState e).setRecord 0 { Record.initial with contact := c }
    ∀ e ∈ ([.config, .dormant] : List EngineState), ∀ c ∈ ([.opened, .closed] : List Contact),
      (s e c).mode = .running ∧ (7 : BitVec 32) ≠ 0 ∧
      ((s e c).engine.state = .config ∨ (s e c).engine.state = .dormant) ∧
      ((s e c).record 0).state = .empty ∧ (s e c).Unassigned 31 ∧
      (∀ q, ((s e c).record q).serial ≠ some 7) ∧ ((s e c).record 0).contact ≠ .unsettled ∧
      min (2 : Byte).toNat 15 < (s e c).params.qLim ∧ (s e c).params.qLim ≤ min (3 : Byte).toNat 15 ∧
      15 < (16 : Byte).toNat) ∧
    (30 ≤ (30 : Byte).toNat ∧ 32 ≤ (32 : Byte).toNat) ∧ (29 : Byte) = posByte 29 ∧ (31 : Byte) = chanByte 31 ∧
    ¬((inState .running).engine.state = .config ∨ (inState .running).engine.state = .dormant) ∧
    ((fitted .config .inService .opened).record 0).state ≠ .empty ∧
    ((fitted .config .inService .opened).record 29).state = .empty ∧
    ((fitted .config .inService .opened).record 0).channel = some 0 ∧
    ((fitted .config .inService .opened).record 0).serial = some 7 ∧
    (State.reset.record 29).contact = .unsettled ∧
    (∀ q, (State.reset.record q).channel ≠ some 31 ∧ (State.reset.record q).serial ≠ some 7) := by
  unfold State.Unassigned; decide

/-- An EMPTY position, an IN_SERVICE record in CONFIG and in RUNNING, a QUARANTINED one in RUNNING. -/
theorem witness_RetireEmptiesThePosition :
    30 ≤ (30 : Byte).toNat ∧ (State.reset.record 29).state = .empty ∧
    ((fitted .running .inService .opened).record 0).state = .inService ∧
    (fitted .running .inService .opened).engine.state ≠ .config ∧
    (fitted .config .inService .opened).engine.state = .config ∧
    ((fitted .running .quarantined .closed).record 0).state = .quarantined ∧
    ((fitted .running .quarantined .closed).record 0).channel = some 0 := by decide

theorem witness_ReadmitListsAnOpenEntry :
    30 ≤ (30 : Byte).toNat ∧ (inState .charging).engine.state ≠ .dormant ∧
    ((fitted .dormant .quarantined .closed).record 0).state ≠ .bypassed ∧
    (fitted .dormant .bypassed .closed).engine.state = .dormant ∧
    ((fitted .dormant .bypassed .closed).record 0).state = .bypassed := by decide

/-- Scopes at their bounds; a released record with its contact CLOSED in RUNNING, and OPEN in CONFIG, in LOCKOUT
and, without the close-failed mark, in RUNNING. -/
theorem witness_ClearTallyReleasesRecords :
    30 ≤ (30 : Byte).toNat ∧ 2 < (3 : Byte).toNat ∧ scopeOf 3 0 = none ∧ scopeOf 0 (posByte 0) = some [0] ∧
    ((fitted .running .quarantined .closed).mode = .running ∧
      ((fitted .running .quarantined .closed).record 0).state = .quarantined ∧
      ∀ p, ((fitted .running .quarantined .closed).record p).contact ≠ .opened) ∧
    (∀ e ∈ ([.config, .lockout, .running] : List EngineState), (fitted e .quarantined .opened).engine.state = e ∧
      ((fitted e .quarantined .opened).record 0).closeFailed = false ∧
      ((fitted e .quarantined .opened).record 0).state = .quarantined ∧
      ((fitted e .quarantined .opened).record 0).contact = .opened) := by decide

theorem witness_ParameterTable : 25 < 26 := by decide

/-- Numbers 25 and 26; in and outside CONFIG; a value below, in and above a range, and each cross-clamp. -/
theorem witness_SetParamClampsAndStores :
    State.reset.mode = .running ∧ 25 < (26 : Byte).toNat ∧ (25 : Byte).toNat ≤ 25 ∧
    (inState .running).engine.state ≠ .config ∧ State.reset.engine.state = .config ∧
    paramRange 0 = some (1, 10) ∧ (0 : BitVec 32).toNat < 1 ∧ 10 < (11 : BitVec 32).toNat ∧
    paramRange 13 = some (0, 50000) ∧ 1000 * State.reset.params.tHO < (5001 : BitVec 32).toNat ∧
    paramRange 22 = some (100, 30000) ∧ (150 : BitVec 32).toNat < State.reset.params.tVMIN ∧
    paramRange 10 = some (0, 1023) ∧ (599 : BitVec 32).toNat < State.reset.params.vLo ∧
    paramRange 25 = some (60, 36000) := by decide

/-- A LIVE receiver whose timer stands at 400 is silenced by 400 and not by 401; the record holds its channel. -/
theorem witness_SetParamSilenceTimeDetects :
    let s := later 400 ((fitted .config .inService .opened).setRx 0
      { Link.initial.rx with link := .live, silence := some 0 })
    s.mode = .running ∧ s.engine.state = .config ∧ (s.link 0).rx.link = .live ∧
    (s.link 0).rx.silence = some 0 ∧ 400 ≤ (s.time - 0).toNat ∧ ¬401 ≤ (s.time - 0).toNat ∧
    s.Assigned 0 0 ∧ (s.link 31).rx.link = .silent := by
  unfold State.Assigned; decide

/-- An invalid key and angles that miss a turn by one; a mode that does not amend; a key present, a key absent,
and a table of 64 entries. -/
theorem witness_LoadShiftPutsTheEntry :
    State.reset.mode = .running ∧ ({ h := 4, i := 5, j := 6 } : Key).valid = false ∧
    anglesWellFormed 12000 12000 11999 = false ∧ anglesWellFormed 1 1 35998 = true ∧
    ({ h := 6, i := 6, j := 5 } : Key).valid = true ∧
    ¬((inState .running).engine.state = .config ∨ (inState .running).engine.state = .dormant ∨
      (inState .running).engine.state = .lockout) ∧
    State.reset.engine.state = .config ∧ (∃ e ∈ oneEntry.shift, e.key = ⟨6, 5, 4⟩) ∧
    (¬∃ e ∈ oneEntry.shift, e.key = ⟨6, 6, 5⟩) ∧ oneEntry.shift.length < 64 ∧
    64 ≤ (List.replicate 64 oneEntry.shift).flatten.length ∧
    10000 < (10001 : BitVec 16).toNat := by decide

theorem witness_DropShiftRemovesTheEntry :
    let s := State.reset.setTables oneEntry
    s.mode = .running ∧ s.tables.Sound ∧ ({ h := 0, i := 0, j := 0 } : Key).valid = false ∧
    ¬((inState .running).engine.state = .config ∨ (inState .running).engine.state = .dormant ∨
      (inState .running).engine.state = .lockout) ∧
    (({ h := 6, i := 6, j := 5 } : Key).valid = true ∧ ¬∃ e ∈ s.tables.shift, e.key = ⟨6, 6, 5⟩) ∧
    (({ h := 6, i := 5, j := 4 } : Key).valid = true ∧ s.engine.state = .config ∧
      ∃ e ∈ s.tables.shift, e.key = ⟨6, 5, 4⟩) :=
  ⟨rfl, oneEntry_sound, by decide, by decide, by decide, by decide⟩

/-- Attempts 0, 1, 15, 16 and directions 1, 2; ramps 0, 64, 65; levels 19, 150, 151. -/
theorem witness_LoadScaleWritesTheEntry :
    State.reset.mode = .running ∧ State.reset.engine.state = .config ∧
    ¬(1 ≤ (0 : Byte).toNat) ∧ ¬((16 : Byte).toNat ≤ 15) ∧ ¬((2 : Byte).toNat ≤ 1) ∧
    (1 ≤ (15 : Byte).toNat ∧ (15 : Byte).toNat ≤ 15 ∧ (1 : Byte).toNat ≤ 1) ∧
    ¬((inState .running).engine.state = .config ∨ (inState .running).engine.state = .dormant ∨
      (inState .running).engine.state = .lockout) ∧
    ((0 : Byte).toNat = 0 ∧ 64 < (65 : Byte).toNat ∧ (19 : Byte).toNat < 20 ∧ 150 < (151 : Byte).toNat) := by
  decide

/-- A full roster: every position IN_SERVICE. -/
def fullRoster (s : State) : State :=
  s.setRoster (Vector.ofFn fun p : Pos => { cell .inService .opened with
    channel := some ⟨p.val, Nat.lt_trans p.isLt (by decide)⟩, serial := some (BitVec.ofNat 32 (p.val + 1)) })

/-- Outside CONFIG; CONFIG with no record; CONFIG with a full roster, with each level of the two lines, and
no entry listed. -/
theorem witness_StartChecksPhasesAndLines :
    (inState .dormant).engine.state ≠ .config ∧
    ¬State.reset.params.nMin ≤
      (allPositions.filter fun p => p.val / 10 == 0 && (State.reset.record p).state == .inService).length ∧
    (∃ s : State, s = fullRoster State.reset ∧
      s.mode = .running ∧ s.engine.state = .config ∧
      (∀ q ∈ ([0, 1, 2] : List Nat), s.params.nMin ≤
        (allPositions.filter fun p => p.val / 10 == q && (s.record p).state == .inService).length) ∧
      s.lines.estopN.level = true ∧ s.lines.energized.level = false ∧
      ((s.setLines { s.lines with energized := Line.settle true }).lines.energized.level = true) ∧
      ((s.setLines { s.lines with estopN := Line.settle false }).lines.estopN.level = false) ∧
      ∀ e ∈ s.matrix.orders, e.kind = .toClose) :=
  ⟨by decide, by decide, fullRoster State.reset, rfl, by decide⟩

/-- LOCKOUT with ESTOP_N and BRAKE_SET high, with ENERGIZED at each level, a record with the close-failed mark;
LOCKOUT with BRAKE_SET low. -/
theorem witness_ClearLockoutRelistsAndResumes :
    let s := ((inState .lockout).setRecord 0 { cell .faulted .opened with closeFailed := true }).setLines
      { Lines.atRest with brakeSet := Line.settle true }
    s.mode = .running ∧
    (s.engine.state = .lockout ∧ s.lines.estopN.level = true ∧ s.lines.brakeSet.level = true) ∧
    (s.record 0).closeFailed = true ∧ s.lines.energized.level = false ∧
    (s.setLines { s.lines with energized := Line.settle true }).lines.energized.level = true ∧
    ¬((inState .lockout).lines.brakeSet.level = true) := by decide

/-- The part running, held in each reset, and without supply. -/
theorem witness_ResetsTakeEveryBlockBack :
    State.reset.mode = .running ∧ (State.reset.setMode (.held .pin)).mode = .held .pin ∧
    (State.reset.setMode .off).mode = .off := by decide

/-- Held and without supply; CS_N low and high as a request reset ends. -/
theorem witness_HeldPartWaitsForResetEnd :
    (State.reset.setMode (.held .pin)).mode ≠ .running ∧ (State.reset.setMode .off).mode ≠ .running ∧
    State.reset.mode = .running ∧
    (((State.reset.setMode (.held .request)).setCsN false).mode = .held .request ∧
      ((State.reset.setMode (.held .request)).setCsN false).csN = false) ∧
    (State.reset.setMode (.held .request)).csN = true := by decide

/-- Every port state, with CS_N high and low, running and held. -/
theorem witness_TransactionsWalkThePort :
    let ported (p : PortState) : State := State.reset.setPort { State.reset.port with state := p }
    (State.reset.setCsN false).csN = false ∧ State.reset.csN = true ∧ State.reset.mode = .running ∧
    State.reset.port.state = .ready ∧ State.reset.port.answer = some Answer.afterReset ∧
    (ported (.preparing 0)).port.state = .preparing 0 ∧
    ((State.reset.setMode (.held .request)).csN = true ∧
      ((State.reset.setMode (.held .request)).setCsN false).csN = false ∧
      (State.reset.setMode (.held .request)).mode ≠ .running) ∧
    (ported (.early 0 true)).port.state = .early 0 true ∧
    (ported (.early 0 false)).port.state = .early 0 false ∧ (ported .serving).port.state = .serving := by decide

/-- A port SERVING with CS_N low. -/
def serving : State := (State.reset.setCsN false).setPort { State.reset.port with state := .serving, answer := none }

/-- Two bytes; a length of 41; bytes missing; a wrong CRC; codes 0 and 0x19; a length that is not the
catalogue's. -/
theorem witness_FramesAreJudged :
    serving.mode = .running ∧ serving.csN = false ∧ serving.port.state = .serving ∧
    ([true] : List Bool).length < 8 ∧ ([0x01, 0x22] : List Byte).length < 3 ∧
    40 < (41 : Byte).toNat ∧ (40 : Byte).toNat ≤ 40 ∧ ([] : List Byte).length ≤ (0 : Byte).toNat ∧
    ([0x00] : List Byte)[(0 : Byte).toNat]? = some 0x00 ∧ ¬(0x00 = crc8 [0x01, 0x22, 0x00]) ∧
    0x18 < (0x19 : Byte).toNat ∧
    ([0, 1, 1] : List Nat)[(0x01 : Byte).toNat - 1]? ≠ some (1 : Byte).toNat := by decide +kernel

theorem witness_RequestFramesExecuteTheirRequest :
    Instr.requestBytes 0x00 (.lookup 0x22 29) = some [0x02, 0x22, 1, 29] ∧ serving.mode = .running ∧
    serving.csN = false ∧ serving.port.state = .serving := by decide

/-- Temperature bytes 190 and 191, the least and the greatest four-byte values. -/
theorem witness_FieldsWordsAndItemsAreLaidOut :
    (190 : Byte).toNat ≤ 190 ∧ 190 < (191 : Byte).toNat ∧ 0 < 4294967296 ∧ 4294967295 < 4294967296 := by simp

/-- A record at A1 whose channel 0 has accepted sequence 5, in an engine state; channel 31 is not assigned and has
accepted it too. -/
def heard (e : EngineState) : State :=
  ((fitted e .inService .opened).setRx 0 { Link.initial.rx with link := .live, lastSeq := some 5, silence := some 0 }).setRx
    31 { Link.initial.rx with lastSeq := some 5 }

/-- A wrong checksum; a repeated and a new sequence, on the channel assigned to A1 and on an unassigned one; code
NONE from a verified record with a clean frame and without; a code shut out by CONFIG. -/
theorem witness_UplinkFramesUpdateLinkAndRecord :
    let s := heard .verifying
    let v := s.setPublisher { s.publisher with verified := some [0] }
    s.mode = .running ∧ crc8 [0x05, 0, 0, 0] ≠ 0x00 ∧
    (s.link 0).rx.lastSeq = some (decodeUplink 0x05 0 0 0).seq ∧
    (s.link 0).rx.lastSeq ≠ some (decodeUplink 0x06 0 0 0).seq ∧
    (s.link 31).rx.lastSeq = some (decodeUplink 0x05 0 0 0).seq ∧ s.Assigned 0 0 ∧ s.Unassigned 31 ∧
    (decodeUplink 0x06 0xBC 0x02 0x40).code = .none ∧ v.CleanFrame (decodeUplink 0x06 0xBC 0x02 0x40) ∧
    (v.record 0).cleanRun.getD 0 < 31 ∧ v.publisher.verified = some [0] ∧ s.publisher.verified = none ∧
    (decodeUplink 0x46 0 0 0).code ≠ .none ∧ (heard .config).engine.state = .config := by
  unfold State.Assigned State.Unassigned State.CleanFrame; decide +kernel

/-- DESAT, not eligible, and DC_OVER while another DC_OVER is open in the same phase, in RUNNING; OVERTEMP in
CHARGING. -/
theorem witness_FaultCodesAreTaken :
    let s := heard .running
    let open_ : State := s.setIntake { s.intake with provisionals := [{ pos := 9, code := .dcOver, stamp := 0 }] }
    s.mode = .running ∧ s.Assigned 0 0 ∧ (s.record 0).state.active = true ∧
    (s.link 0).rx.lastSeq ≠ some (decodeUplink 0x46 0 0 0).seq ∧
    (decodeUplink 0x46 0 0 0).code.cause = some .desat ∧ (decodeUplink 0x16 0 0 0).code.cause = some .dcOver ∧
    (decodeUplink 0x36 0 0 0).code.cause = some .overtemp ∧
    s.engine.state ≠ .config ∧ s.engine.state ≠ .dormant ∧
    ¬((heard .charging).engine.state = .charging ∧ (decodeUplink 0x36 0 0 0).code = .dcUnder) ∧
    (∀ g ∈ s.intake.groups, FaultCause.desat.eligible ≠ some g.code) ∧
    (∀ q ∈ s.intake.provisionals, FaultCause.desat.eligible = some q.code → phaseOf q.pos = phaseOf 0) ∧
    (∀ q ∈ open_.intake.provisionals, FaultCause.dcOver.eligible = some q.code → phaseOf q.pos = phaseOf 0) := by
  unfold State.Assigned; decide +kernel

/-- DC_OVER at A1 with a DC_OVER open at B1, in RUNNING, the contact of B1, restorable, OPEN and CLOSED; and with a
group of its code open, in LOCKOUT. -/
theorem witness_CommonCauseRestoresAndLocksOut :
    let member (c : Contact) : Record :=
      { cell .faulted c with channel := some 1, serial := some 8, prior := some .inService }
    let s := ((heard .running).setRecord 10 (member .opened)).setIntake
      { Intake.initial with provisionals := [{ pos := 10, code := .dcOver, stamp := 0 }] }
    let c := s.setRecord 10 (member .closed)
    let g := (heard .lockout).setIntake
      { Intake.initial with groups := [{ code := .dcOver, members := [10, 20], latest := 0 }] }
    s.mode = .running ∧ s.Assigned 0 0 ∧ g.Assigned 0 0 ∧ (s.record 0).state.active = true ∧
    (s.link 0).rx.lastSeq ≠ some (decodeUplink 0x16 0 0 0).seq ∧
    (decodeUplink 0x16 0 0 0).code.cause = some .dcOver ∧ FaultCause.dcOver.eligible = some .dcOver ∧
    s.params.tCC ≠ 0 ∧ s.engine.state ≠ .config ∧ s.engine.state ≠ .dormant ∧ s.engine.state ≠ .charging ∧
    (∃ q ∈ s.intake.provisionals, q.code = .dcOver ∧ phaseOf q.pos ≠ phaseOf 0) ∧
    (∃ x ∈ g.intake.groups, x.code = .dcOver) ∧ g.engine.state = .lockout ∧
    ((s.record 10).state = .faulted ∧ (s.record 10).prior = some .inService ∧ (s.record 10).contact ≠ .closed) ∧
    ((c.record 10).contact = .closed ∧ RecordState.inService.active = true ∧ c.Assigned 0 0) ∧
    (∀ x ∈ s.intake.provisionals, x.code = .dcOver → (s.time - x.stamp).toNat ≤ 2147483647) := by
  unfold State.Assigned; decide

/-- A score of 28, which the next bad frame takes to 32, of 27, and of 32; on a channel assigned to A1 in RUNNING
and in CONFIG, and on an unassigned one. -/
theorem witness_BadFramesCountAndDegrade :
    let s (e : EngineState) (n : Nat) : State :=
      (fitted e .inService .opened).setRx 0 { Link.initial.rx with score := n }
    (s .running 28).mode = .running ∧ (s .running 28).Assigned 0 0 ∧ (s .running 28).Unassigned 31 ∧
    (((s .running 28).link 0).rx.score < 32 ∧ 28 ≤ ((s .running 28).link 0).rx.score ∧
      ((s .running 28).link 0).rx.degraded = false) ∧
    ¬28 ≤ ((s .running 27).link 0).rx.score ∧ ¬((s .running 32).link 0).rx.score < 32 ∧
    ((s .running 28).record 0).state.active = true ∧
    ((s .running 28).engine.state ≠ .config ∧ (s .running 28).engine.state ≠ .dormant ∧
      (s .running 28).engine.state ≠ .charging) ∧
    (s .config 28).engine.state = .config := by
  unfold State.Assigned State.Unassigned; decide

/-- No frame open; a frame of three and of four words open, sound and condemned; marker and continuation words. -/
theorem witness_UplinkWordsMakeFrames :
    let s (f : OpenFrame) : State := State.reset.setRx 0 { Link.initial.rx with frame := some f }
    State.reset.mode = .running ∧ (State.reset.link 0).rx.frame = none ∧
    ((0xA02#12).getLsbD 9 = true ∧ (0x802#12).getLsbD 9 = false) ∧
    ((s { words := [1, 2, 3], condemned := false }).link 0).rx.frame.isSome ∧
    ([1, 2, 3] : List Byte).length < 4 ∧ ([1, 2, 3, 4] : List Byte).length = 4 ∧
    ((s { words := [1, 2, 3, 4], condemned := true }).link 0).rx.frame =
      some { words := [1, 2, 3, 4], condemned := true } ∧ (false || lineFaulty 0x002#12) = true := by decide

/-- A LIVE receiver with its timer at tSIL exactly: on the channel of A1 in RUNNING and in CONFIG, and on an
unassigned one. -/
theorem witness_SilenceIsDetected :
    let live (e : EngineState) (ch : Chan) : State := later 400 ((fitted e .inService .opened).setRx ch
      { Link.initial.rx with link := .live, silence := some 0 })
    (live .running 0).mode = .running ∧ ((live .running 0).link 0).rx.link = .live ∧
    ((live .running 0).link 0).rx.silence = some 0 ∧
    (live .running 0).params.tSIL ≤ ((live .running 0).time - 0).toNat ∧ (live .running 0).Assigned 0 0 ∧
    ((live .running 0).record 0).state.active = true ∧ (live .running 0).engine.state = .running ∧
    (live .config 0).engine.state = .config ∧
    ((live .config 31).link 31).rx.silence = some 0 ∧ (live .config 31).Unassigned 31 := by
  unfold State.Assigned State.Unassigned; decide

theorem witness_DownlinkBoundarySendsFrames :
    let s := later 50 (fitted .running .inService .opened)
    s.mode = .running ∧ 50 ≤ (s.time - s.downlinkSince).toNat ∧ s.Assigned 0 0 ∧ s.Unassigned 31 := by
  unfold State.Assigned State.Unassigned; decide

/-- A provisional fault and a group stamped 0, at tCC exactly; the record FAULTED and not; a second fault of the
code stamped alike at A2, which is not in turn. -/
theorem witness_WindowsAndGroupsEnd :
    let s := later 2000 ((fitted .halted .faulted .opened).setIntake
      { provisionals := [{ pos := 0, code := .dcOver, stamp := 0 }, { pos := 1, code := .dcOver, stamp := 0 }]
        groups := [{ code := .overtemp, members := [1, 11], latest := 0 }] })
    s.mode = .running ∧ ({ pos := 0, code := .dcOver, stamp := 0 } : Provisional) ∈ s.intake.provisionals ∧
    s.params.tCC ≤ (s.time - 0).toNat ∧ (s.record 0).state = .faulted ∧ (s.record 1).state ≠ .faulted ∧
    (∀ y ∈ s.intake.provisionals, before y.stamp y.pos 0 0 = false) ∧ before 0 0 0 1 = true ∧
    s.intake.groups = [] ++ { code := .overtemp, members := [1, 11], latest := 0 } :: [] := by decide

/-- A record at A1 whose contact has been read twice as closed, or as open, at the end of the dwell of rank 1. -/
def readTwice (s : State) (closed : Bool) : State :=
  s.setMatrix { s.matrix with
    dwell := some (s.time - 1000), debounce := s.matrix.debounce.set 0 { candidate := some closed, agree := 2 } }

/-- In CONFIG a third read that settles, of an IN_SERVICE record closed and a BYPASSED one open; in RUNNING reads
that settle nothing. -/
theorem witness_ScanReadsOneRankAndConfigFollows :
    let s := readTwice (later 1000 (fitted .config .inService .opened)) true
    let b := readTwice (later 1000 (fitted .config .bypassed .closed)) false
    let r := readTwice (later 1000 (fitted .running .inService .opened)) true
    s.mode = .running ∧ s.matrix.dwell = some 0 ∧ 1000 ≤ (s.time - 0).toNat ∧
    (s.engine.state = .config ∧ s.matrix.unit = .idle) ∧ s.Settles (posAt 0 s.matrix.pointer) true ∧
    b.Settles (posAt 0 b.matrix.pointer) false ∧ (s.record 0).state = .inService ∧
    (b.record 0).state = .bypassed ∧ r.matrix.dwell = some 0 ∧
    ∀ q : Fin 3, ¬r.Settles (posAt q r.matrix.pointer) false := by
  unfold State.Settles; decide +kernel

/-- Two records of rank 1, A1 and B1, whose contacts both settle in one dwell of RUNNING. -/
theorem witness_TwoChangesSettleInOneDwell :
    let one := readTwice (later 1000 ((fitted .running .inService .opened).setRecord 10
      { cell .bypassed .closed with channel := some 1, serial := some 8 })) true
    let s := one.setMatrix { one.matrix with
      debounce := one.matrix.debounce.set 10 { candidate := some false, agree := 2 } }
    s.mode = .running ∧ s.matrix.dwell = some 0 ∧ 1000 ≤ (s.time - 0).toNat ∧ s.engine.state ≠ .config ∧
    s.Settles (posAt 0 s.matrix.pointer) true ∧ s.Settles (posAt 1 s.matrix.pointer) false := by
  unfold State.Settles; decide +kernel

/-- The third read, at tBC exactly after the pulse's end: of a CLOSING record closed and an OPENING one open under
the pulse that is SETTLING; with the unit IDLE, of an active record closed, a BYPASSED and a QUARANTINED one open
and a FAULTED one closed; the engine in HALTED, in BYPASSING and in RUNNING. -/
theorem witness_SettledChangesConfirmOrSurprise :
    let at200 (st : RecordState) (c : Contact) (u : FiringUnit) (closed : Bool) : State :=
      readTwice (later 200000 ((fitted .halted st c).setUnit u)) closed
    let s := at200 .closing .opened (.settling 0 .toClose 0 false) true
    let o := at200 .opening .closed (.settling 0 .toOpen 0 true) false
    let a := at200 .inService .opened .idle true
    let b := at200 .bypassed .closed .idle false
    let f := at200 .faulted .opened .idle true
    let quarantined := at200 .quarantined .closed .idle false
    (s.mode = .running ∧ s.matrix.dwell = some 199000 ∧ 1000 ≤ (s.time - 199000).toNat ∧
      s.Settles (posAt 0 s.matrix.pointer) true ∧
      (∀ q : Fin 3, q ≠ 0 → ¬s.Settles (posAt q s.matrix.pointer) false) ∧ s.engine.state = .halted ∧
      s.matrix.unit = .settling 0 .toClose 0 false ∧ (s.time - 0).toNat ≤ 1000 * s.params.tBC ∧
      (s.record 0).state = .closing) ∧
    (o.Settles (posAt 0 o.matrix.pointer) false ∧ o.matrix.unit = .settling 0 .toOpen 0 true ∧
      (o.record 0).state = .opening) ∧
    (a.Settles (posAt 0 a.matrix.pointer) true ∧ a.matrix.unit = .idle ∧ (a.record 0).state.active = true) ∧
    (b.Settles (posAt 0 b.matrix.pointer) false ∧ b.matrix.unit = .idle ∧ (b.record 0).state = .bypassed) ∧
    (f.Settles (posAt 0 f.matrix.pointer) true ∧ f.matrix.unit = .idle ∧ (f.record 0).state.active = false) ∧
    (quarantined.Settles (posAt 0 quarantined.matrix.pointer) false ∧
      (quarantined.record 0).state = .quarantined) ∧
    (∀ e ∈ ([.bypassing, .running] : List EngineState),
      (s.setEngine { Engine.initial with state := e }).engine.state ≠ .config) := by
  unfold State.Settles; decide +kernel

/-- Each time exactly reached: tHO 5 ms, tFW 80 ms, tREC 300 ms. -/
theorem witness_MatrixTimersRun :
    let held : Entry := { entry .toClose with holdOff := true }
    let s (n : Nat) (u : FiringUnit) : State := (later n State.reset).setUnit u
    State.reset.mode = .running ∧ held.kind = .toClose ∧ held.holdOff = true ∧ held.holdOffRun = false ∧
    held ∈ (State.reset.setOrders [held]).matrix.orders ∧
    1000 * State.reset.params.tHO ≤ ((later 5000 State.reset).time - held.stamp).toNat ∧
    ((s 80000 (.firing 0 .toClose 0)).matrix.unit = .firing 0 .toClose 0 ∧
      1000 * State.reset.params.tFW ≤ ((later 80000 State.reset).time - 0).toNat) ∧
    ((s 300000 (.settling 0 .toOpen 0 false)).matrix.unit = .settling 0 .toOpen 0 false ∧
      (s 300000 (.recovering 0)).matrix.unit = .recovering 0 ∧
      1000 * State.reset.params.tREC ≤ ((later 300000 State.reset).time - 0).toNat) := by decide

/-- RUNNING with a record FAULTED at A1 and its CLOSE entry listed, and every law of the list and the unit. -/
def listed : State := (fitted .running .faulted .opened).setOrders [entry .toClose]

theorem listed_switched : listed.Switched where
  alone := by decide
  capacity := by decide
  closeEntry := by decide
  openEntry := by decide
  closePulse p h := by cases h
  openPulse p h := by cases h
  pulseAlone p k h := by cases h
  mark := by decide
  prior := by decide
  scan p k t h := by cases h
  config h := by cases h
  stopped h := absurd rfl h

theorem witness_ClosePulsesObserveTheHoldOff :
    listed.Switched ∧ ∃ t, exec .entryGrant listed = .next t ∧
      t.matrix.unit = .firing 0 .toClose listed.time ∧ listed.matrix.unit ≠ t.matrix.unit :=
  ⟨listed_switched, _, rfl, by decide, by decide⟩

/-- A held entry before an eligible one, each of the four cases of contact and kind, the engine DORMANT. -/
theorem witness_GrantTakesTheOldestEligibleEntry :
    let s (st : RecordState) (c : Contact) (k : SwitchKind) : State :=
      (fitted .dormant st c).setOrders [{ entry .toClose with pos := 1, hold := true }, entry k]
    (s .faulted .opened .toClose).mode = .running ∧ (s .faulted .opened .toClose).matrix.unit = .idle ∧
    (s .faulted .opened .toClose).matrix.orders =
      [{ entry .toClose with pos := 1, hold := true }] ++ entry .toClose :: [] ∧
    (s .opening .closed .toOpen).matrix.orders =
      [{ entry .toClose with pos := 1, hold := true }] ++ entry .toOpen :: [] ∧
    ((entry .toClose).kind = .toClose ∧ (entry .toClose).hold = false ∧ (entry .toClose).holdOff = false) ∧
    ((entry .toOpen).kind = .toOpen ∧ (s .opening .closed .toOpen).engine.state = .dormant) ∧
    ({ entry .toClose with pos := 1, hold := true } : Entry).hold = true ∧
    (((s .faulted .opened .toClose).record 0).state = .faulted ∧
      ((s .faulted .opened .toClose).record 0).contact ≠ .closed) ∧
    ((s .faulted .closed .toClose).record 0).contact = .closed ∧
    ((s .opening .closed .toOpen).record 0).contact ≠ .opened ∧
    (((s .opening .opened .toOpen).record 0).state = .opening ∧
      ((s .opening .opened .toOpen).record 0).contact = .opened) := by decide

/-- At tBC exactly: a CLOSING record in HALTED, in LOCKOUT and in DORMANT, there also with an OPEN entry of another
record waiting, and an OPENING record. -/
theorem witness_UnconfirmedPulsesTimeOut :
    let s (e : EngineState) (st : RecordState) (k : SwitchKind) : State :=
      later 200000 ((fitted e st .opened).setUnit (.settling 0 k 0 false))
    (s .halted .closing .toClose).mode = .running ∧
    1000 * State.reset.params.tBC ≤ ((later 200000 State.reset).time - 0).toNat ∧
    (∀ e ∈ ([.halted, .lockout, .dormant] : List EngineState),
      (s e .closing .toClose).matrix.unit = .settling 0 .toClose 0 false ∧
      ((s e .closing .toClose).record 0).state = .closing ∧ (s e .closing .toClose).engine.state = e) ∧
    (s .dormant .opening .toOpen).matrix.unit = .settling 0 .toOpen 0 false ∧
    ((s .dormant .opening .toOpen).record 0).state = .opening ∧
    (let w : State := ((s .dormant .closing .toClose).setRecord 1 (cell .opening .opened)).setOrders
      [{ entry .toOpen with pos := 1 }]
     w.engine.state = .dormant ∧ w.matrix.unit = .settling 0 .toClose 0 false ∧
     (w.record 1).state = .opening ∧ (w.record 1).contact = .opened ∧
     ∃ e ∈ w.matrix.orders, e.kind = .toOpen ∧ e.pos = 1) := by decide

theorem witness_WinderEdgesMoveTheEngine :
    ∀ e ∈ ([.config, .dormant, .lockout, .running, .halted, .proving] : List EngineState),
      (inState e).mode = .running ∧ (inState e).engine.state = e := by decide

/-- DORMANT with an OPENING record and its OPEN entry waiting, the contact CLOSED and OPEN. -/
theorem witness_LeavingDormantWithdrawsOpens :
    ∀ c ∈ ([.closed, .opened] : List Contact),
      let s := (fitted .dormant .opening c).setOrders [entry .toOpen]
      s.mode = .running ∧ s.engine.state = .dormant ∧ (s.record 0).state = .opening ∧
      ∃ e ∈ s.matrix.orders, e.kind = .toOpen ∧ e.pos = 0 := by decide

/-- Each wait at its deadline exactly: tWAKE 5 s with a CLOSING record and with none, tPRV 5 s, tBRK 2 s, tADOPT
20 ms; and a RESTART pass in PROVING. -/
theorem witness_WaitsEndByEventOrDeadline :
    (let s (st : RecordState) : State :=
      let f := later 5000000 (fitted .charging st .opened)
      f.setEngine { f.engine with grace := some 0 }
    (s .closing).mode = .running ∧ (s .closing).engine.state = .charging ∧
    (s .closing).engine.grace = some 0 ∧
    100000 * (s .closing).params.tWAKE ≤ ((s .closing).time - 0).toNat ∧
    ((s .closing).record 0).state = .closing ∧
    ∀ p, ((s .inService).record p).state ≠ .closing ∧ ((s .inService).record p).state ≠ .faulted) ∧
    let s (n : Nat) (e : Engine) : State := (later n State.reset).setEngine e
    let pass : Pass := { kind := .restart, attempt := 1, outcome := none }
    let proving := s 5000000 { Engine.initial with state := .proving, proving := some 0, pass := some pass }
    let halted := s 2000000 { Engine.initial with state := .halted, brakeWait := some 0 }
    let publishing := (s 20000 { Engine.initial with state := .publishing }).setPublisher
      { Publisher.initial with adoptDeadline := some 0 }
    (inState .running).engine.state ≠ .proving ∧
    (proving.mode = .running ∧ proving.engine.state = .proving ∧ proving.engine.pass = some pass ∧
      pass.kind = .restart ∧ proving.engine.proving = some 0 ∧
      1000000 * proving.params.tPRV ≤ (proving.time - 0).toNat) ∧
    (halted.engine.state = .halted ∧ halted.engine.brakeWait = some 0 ∧ halted.lines.brakeSet.level = false ∧
      1000 * halted.params.tBRK ≤ (halted.time - 0).toNat) ∧
    (publishing.engine.state = .publishing ∧ publishing.publisher.adoptDeadline = some 0 ∧
      1000 * publishing.params.tADOPT ≤ (publishing.time - 0).toNat) := by decide

/-- An accrual of one second exactly, a countdown at 0, and a PROBATION record with 1 and with 0 remaining. -/
theorem witness_RunningTimeCounts :
    let counting (n k : Nat) : State := State.reset.setEngine
      { Engine.initial with state := .running, cleanRun := some { remaining := n, accrual := k } }
    let probation (n : Nat) : State := (State.reset.setRecord 0
      { cell .probation .opened with probation := some n }).setAccrual 1000000
    (counting 1 1000000).mode = .running ∧
    (counting 1 1000000).engine.cleanRun = some { remaining := 1, accrual := 1000000 } ∧
    (counting 0 0).engine.cleanRun = some { remaining := 0, accrual := 0 } ∧ 1000000 ≤ (probation 1).accrual ∧
    (((probation 1).record 0).state = .probation ∧ ((probation 1).record 0).probation = some 1) ∧
    ((probation 1).record 1).state ≠ .probation ∧ ((probation 0).record 0).probation = some 0 := by decide

/-- A frame of 20 words has run at 10; with a frame queued, with none in PUBLISHING and with none elsewhere. -/
theorem witness_SetFramesAreSentInTurn :
    let frame := List.replicate 20 (0xA5 : Byte)
    let s (e : EngineState) (q : Option (List Byte)) : State := (later 10 (inState e)).setPublisher
      { Publisher.initial with sending := some { frame := frame, since := 0 }, queued := q }
    (s .publishing none).mode = .running ∧
    (s .publishing none).publisher.sending = some { frame := frame, since := 0 } ∧
    frame.length / 2 ≤ ((later 10 State.reset).time - 0).toNat ∧
    (s .publishing (some frame)).publisher.queued = some frame ∧ (s .publishing none).publisher.queued = none ∧
    (s .publishing none).engine.state = .publishing ∧ (s .halted none).engine.state ≠ .publishing := by decide

/-- PUBLISHING with generation 1 published and its frame sent: generation 1 is accepted, generation 2 is not. -/
theorem witness_AdoptionEntersVerifying :
    let s := (fitted .publishing .parked .opened).setPublisher
      { Publisher.initial with published := 1, frameSent := some true }
    s.mode = .running ∧
    (s.engine.state = .publishing ∧ (1 : BitVec 16) = s.publisher.published ∧
      s.publisher.frameSent = some true) ∧
    ¬((2 : BitVec 16) = s.publisher.published) ∧ s.params.tVMIN ≠ 0 ∧ (s.record 0).state = .parked := by decide

/-- The header word after an idle line and inside a frame; no frame, a frame of three and of four words; a right
and a wrong CRC-16. -/
theorem witness_AdoptionWordsMakeFrames :
    let held (l : List Byte) : State := State.reset.setPublisher { Publisher.initial with receiver := some l }
    State.reset.mode = .running ∧ (∀ i < 8, (0x5A : Byte).getLsbD i = (0x2B4#10).getLsbD (i + 1)) ∧
    (true = true ∧ (0x5A : Byte) = 0x5A) ∧ ¬(false = true ∧ (0x5A : Byte) = 0x5A) ∧
    State.reset.publisher.receiver = none ∧ (held [0x5A, 0, 1]).publisher.receiver = some [0x5A, 0, 1] ∧
    ([0x5A, 0, 1] : List Byte).length < 4 ∧
    (held [0x5A, 0, 1, 0x00]).publisher.receiver = some [0x5A, 0, 1, 0x00] ∧
    (∃ w3 w4 : Byte, bytes2 (crc16 [0x5A, 0, 1]).toNat = [w3, w4]) ∧
    bytes2 (crc16 [0x5A, 0, 1]).toNat ≠ [0x00, 0x5A] :=
  ⟨rfl, by decide, by decide, by decide, rfl, rfl, by decide, rfl, ⟨_, _, rfl⟩, by decide +kernel⟩

/-- VERIFYING at tVMIN and at tVER exactly, with a record at 15 and at 16 clean frames, contact open and closed. -/
theorem witness_VerificationTimersDecideThePass :
    let s (n run : Nat) (c : Contact) : State :=
      (later n ((inState .verifying).setRecord 0 { cell .inService c with cleanRun := some run })).setPublisher
        { Publisher.initial with verified := some [0], minTimer := some 0, verDeadline := some 0 }
    (s 200000 16 .opened).mode = .running ∧ (s 200000 16 .opened).engine.state = .verifying ∧
    (s 200000 16 .opened).publisher.minElapsed = false ∧ (s 200000 16 .opened).publisher.minTimer = some 0 ∧
    1000 * State.reset.params.tVMIN ≤ ((later 200000 State.reset).time - 0).toNat ∧
    (s 3000000 15 .closed).publisher.verified = some [0] ∧ (s 3000000 15 .closed).publisher.verDeadline = some 0 ∧
    1000 * State.reset.params.tVER ≤ ((later 3000000 State.reset).time - 0).toNat ∧
    ((s 3000000 15 .opened).record 0).cleanRun.getD 0 < max 1 State.reset.params.kClean ∧
    ¬((s 3000000 16 .opened).record 0).cleanRun.getD 0 < max 1 State.reset.params.kClean ∧
    ((s 3000000 15 .opened).record 0).state.active = true ∧
    ((s 3000000 15 .closed).record 0).contact = .closed := by decide

/-- The number of candidates of a phase, as the statement counts them. -/
def count (roster : Vector Record 30) (q : Nat) : Nat :=
  (allPositions.filter fun p =>
    p.val / 10 == q && [.inService, .parked, .probation].contains roster[p].state).length

/-- Counts below N_MIN; equal counts; counts (10, 9, 10), sorted A, C, B, with no entry, and with one below and one
at F_eq. -/
theorem witness_RebalanceFollowsTheStages :
    let full := (fullRoster State.reset).roster
    let less := full.set 10 Record.initial
    let e (f : Nat) : ShiftEntry := { key := ⟨10, 10, 9⟩, hi := 12000, ij := 12000, jh := 12000, fsh := f }
    (count State.reset.roster 0 < Params.initial.nMin ∧
      Params.initial.nMin ≤ min (count full 0) (min (count full 1) (count full 2))) ∧
    (count full 0 = count full 1 ∧ count full 1 = count full 2) ∧
    (Params.initial.policy = 0 ∧ ¬(count less 0 = count less 1) ∧
      Params.initial.nMin ≤ min (count less 0) (min (count less 1) (count less 2))) ∧
    ((count less 0 = count less 2 ∧ 0 < 2) ∧ count less 1 < count less 2) ∧
    findShift [] ⟨10, 10, 9⟩ = none ∧
    (findShift [e 9999] ⟨10, 10, 9⟩ = some (e 9999) ∧ (e 9999).fsh < min 10000 (10000 * 9 / 6)) ∧
    min 10000 (10000 * 9 / 6) ≤ (e 10000).fsh := by decide +kernel

/-- An EMPTY position, a parked candidate, and one that is not. -/
theorem witness_CommitGivesCarrierOffsets :
    (fullRoster State.reset).record 0 = (fullRoster State.reset).roster[(0 : Pos)] ∧
    (State.reset.record 0).state = .empty ∧ ((fullRoster State.reset).record 0).state = .inService ∧
    (0 : Pos) ∈ [(0 : Pos)] ∧ (1 : Pos) ∉ [(0 : Pos)] := by decide

/-- A part with a record and one command waiting. -/
def waiting : State := (fitted .running .inService .opened).setPending [.nop 1]

theorem waiting_record : ∀ p, waiting.record p = if p = 0 then cell .inService .opened else Record.initial := by
  decide

theorem witness_EveryStepKeepsTheRosterLaws :
    (∃ t, step waiting = .next t) ∧ waiting.Counted ∧ waiting.OffsetsKept ∧ waiting.Indexed := by
  have channel : ∀ p, (waiting.record p).channel = if p = 0 then some 0 else none := by decide
  have serial : ∀ p, (waiting.record p).serial = if p = 0 then some 7 else none := by decide
  have offset : ∀ p, (waiting.record p).offset = none := by decide
  have run : ∀ p, ((waiting.record p).cleanRun.getD 0) = 0 := by decide
  refine ⟨⟨_, rfl⟩, ⟨by decide, fun p n h => ?_, by decide⟩,
    ⟨fun p n h => ?_, fun p h => ?_, fun _ => offset⟩, ⟨fun p q ch hp hq => ?_, fun p q tag hp hq => ?_⟩⟩
  · have := run p
    simp_all
  · simp [offset] at h
  · simp [offset] at h
  · rw [channel] at hp hq
    split at hp <;> split at hq <;> simp_all
  · rw [serial] at hp hq
    split at hp <;> split at hq <;> simp_all

/-- A window and a voltage range set to their partners' bounds. -/
def clamped : Params := { Params.initial with tCC := 5000, vHi := 600, tVER := 200 }

theorem clamped_kept : clamped.Kept where
  range n lo hi h := by
    have known : ∀ n : Fin 26, (paramRange n).all (fun r => r.1 ≤ clamped.get n && clamped.get n ≤ r.2) := by
      decide
    by_cases hn : n < 26
    · have := known ⟨n, hn⟩
      simp_all
    · unfold paramRange at h
      split at h <;> first | omega | cases h
  window := by decide
  verify := by decide
  voltage := by decide

theorem witness_EveryStepKeepsTablesAndEngineLaws :
    (∃ t, step (waiting.setParams clamped) = .next t) ∧ (waiting.setParams clamped).Limited ∧
    (waiting.setParams clamped).publisher.Numbered ∧
    (∃ t, step ((State.reset.setTables oneEntry).setPending [.dropShift 1 6 5 4]) = .next t) ∧
    ((State.reset.setTables oneEntry).setPending [.dropShift 1 6 5 4]).tables.Sound :=
  ⟨⟨_, rfl⟩, ⟨clamped_kept, by decide⟩, Or.inl rfl, ⟨_, rfl⟩, oneEntry_sound⟩

/-- A law-abiding part with a grant due, and with a pulse in flight. -/
theorem witness_EveryStepKeepsTheSwitchLaws :
    (∃ t, step listed = .next t) ∧ listed.Switched ∧
    ∃ u : State, exec .entryGrant listed = .next u ∧ u.matrix.unit = .firing 0 .toClose 0 ∧ u.Switched := by
  refine ⟨⟨_, rfl⟩, listed_switched, _, rfl, by decide, ?_⟩
  exact
    { alone := by decide
      capacity := by decide
      closeEntry := by decide
      openEntry := by decide
      closePulse := by decide
      openPulse := by decide
      pulseAlone := fun _ _ _ e he => absurd (show e ∈ ([] : List Entry) from he) List.not_mem_nil
      mark := by decide
      prior := by decide
      scan := fun _ _ _ _ => by decide
      config := fun h => absurd h (by decide)
      stopped := fun h => absurd h (by decide) }

/-- A part held in a pin reset. -/
theorem witness_OutputsFollowTheEngineAndTheReset :
    (∃ t, step State.reset.pinReset = .next t) ∧ State.reset.pinReset.StandsWhileHeld ∧
    State.reset.pinReset.mode ≠ .running := by
  refine ⟨⟨_, rfl⟩, fun _ => ⟨fun x hx => ?_, rfl, rfl⟩, by decide⟩
  cases x <;> first | rfl | exact absurd (by decide) hx

theorem witness_QuarantineEndsByRequestAlone :
    let s := fitted .running .quarantined .closed
    (∃ t, exec (.readmit 1 0) s = .next t) ∧ Instr.releases (.readmit 1 0) 0 = false ∧
    Instr.resets (.readmit 1 0) = false ∧ (s.record 0).state = .quarantined :=
  ⟨⟨_, rfl⟩, by decide, by decide, by decide⟩

theorem witness_ResetAloneReturnsToConfig :
    (∃ t, exec (.setParam 1 0 3) (inState .dormant) = .next t) ∧ Instr.resets (.setParam 1 0 3) = false ∧
    (inState .dormant).engine.state ≠ .config := ⟨⟨_, rfl⟩, by decide, by decide⟩

end Sys2Proof.Tests
end

section
/-! Proofs: what one elementary change does to one record, and from it the roster's laws (R2, R3, R19, R39, R42,
R94, R133). -/

namespace Sys2Proof.Machine

/-! ## One record under an elementary change -/

/-- What an elementary change makes of the record at one position: nothing, one of the spec's single changes,
the commit of a rebalance outside CONFIG (R15), an ENROL whose checks pass (R26), or a reset (R187). -/
inductive RecordChange (may : Grants) (s t : State) (p : Pos) : Prop where
  | same (h : t.record p = s.record p)
  | moved (h : RecordMove s.params s.engine.state (may.releases p) (s.record p) (t.record p))
  | committed (parked : List Pos) (hc : s.engine.state ≠ .config)
      (h : t.record p =
        (s.record p).committed (parked.contains p) (carrierOffset s.roster parked p))
  | enrolled (ch : Chan) (serial : BitVec 32) (tally : Nat) (dormant : Bool)
      (hr : s.enrolRefusal p ch serial = none)
      (h : t.record p = (s.record p).enrolled ch serial tally dormant s.params)
      (ho : s.OtherRecords t p)
  | reset (hr : may.resets = true) (h : ∀ q, t.record q = Record.initial)

theorem blocksReset_record (s : State) (m : Mode) (r : ResetRecord) (p : Pos) :
    (s.blocksReset m r).record p = Record.initial := by
  simp [State.blocksReset, State.record, State.reset]

theorem blocksReset_link (s : State) (m : Mode) (r : ResetRecord) (ch : Chan) :
    (s.blocksReset m r).link ch = Link.initial := by
  simp [State.blocksReset, State.link, State.reset]

/-- Of the elementary changes only those of the roster reach a record. -/
theorem Move.recordChange {may : Grants} {s t : State} (h : Move may s t) (p : Pos) :
    RecordChange may s t p := by
  cases h with
  | aside t h1 h2 h3 h4 h5 h6 => exact .same (State.record_congr h2 p)
  | record q r hr =>
    by_cases hq : p = q
    · subst hq
      exact .moved (by rwa [State.record_setRecord_same])
    · exact .same (State.record_setRecord_ne s q p r hq)
  | records f hf =>
    rcases hf p with hp | hp
    · exact .same (by rw [State.record_mapRecords, hp])
    · exact .moved (by rwa [State.record_mapRecords])
  | commit parked hc => exact .committed parked hc (State.record_mapRecords s _ p)
  | enrol q ch serial tally dormant hr =>
    by_cases hq : p = q
    · subst hq
      exact .enrolled ch serial tally dormant hr (State.record_setRecord_same s p _)
        fun q hq => State.record_setRecord_ne s p q _ hq
    · exact .same (State.record_setRecord_ne s q p _ hq)
  | link ch l hl => exact .same (State.setLink_record s ch l p)
  | transmitters f => exact .same (State.setLinks_record s _ p)
  | engine e he => exact .same (State.setEngine_record s e p)
  | publisher x hx => exact .same (State.setPublisher_record s x p)
  | tables x hx => exact .same (State.setTables_record s x p)
  | params n lo hi v hr hc => exact .same (State.setParams_record s _ p)
  | reset m r hr => exact .reset hr (blocksReset_record s m r)

/-- A record passes the checks of ENROL only while it is EMPTY, with its channel and serial tag at no position
(R25). -/
theorem enrolRefusal_none {s : State} {p : Pos} {ch : Chan} {serial : BitVec 32}
    (h : s.enrolRefusal p ch serial = none) :
    (s.record p).state = .empty ∧ s.channelPos ch = none ∧ s.serialPos serial = none := by
  unfold State.enrolRefusal at h
  split at h
  · cases h
  split at h
  · cases h
  · next hempty =>
    split at h
    · cases h
    · next hused =>
      rw [not_or, Option.not_isSome_iff_eq_none, Option.not_isSome_iff_eq_none] at hused
      exact ⟨not_not.mp hempty, hused⟩

/-! ## What a single change leaves of a record -/

/-- The names of a record stand, its counts stand or are in range, and its offset stands or is gone. -/
structure Record.Follows (r r' : Record) : Prop where
  channel : r'.channel = r.channel
  serial : r'.serial = r.serial
  tally : r'.tally = r.tally ∨ r'.tally ≤ 15
  run : r'.cleanRun = r.cleanRun ∨ ∀ n, r'.cleanRun = some n → n ≤ 31
  offset : r'.offset = r.offset ∨ r'.offset = none

theorem Record.Follows.refl (r : Record) : r.Follows r := ⟨rfl, rfl, .inl rfl, .inl rfl, .inl rfl⟩

theorem measured_run (r : Record) (f : UplinkFields) (clean : Bool) (n : Nat)
    (h : (r.measured f clean).cleanRun = some n) : n ≤ 31 := by
  cases clean <;> cases h
  · exact Nat.zero_le _
  · exact Nat.min_le_left _ _

/-- Every single change but RETIRE keeps a record's names (R27), and none gives it an offset. -/
theorem RecordMove.follows {ps : Params} {st : EngineState} {amend : Bool} {r r' : Record}
    (h : RecordMove ps st amend r r') : r' = r.retired ∨ r.Follows r' := by
  refine (em (r' = r.retired)).imp_right fun hret => ?_
  cases h with
  | retired => exact absurd rfl hret
  | contact | contactOpen | readmitted | relisted | probationDone => exact ⟨rfl, rfl, .inl rfl, .inl rfl, .inl rfl⟩
  | run => exact ⟨rfl, rfl, .inl rfl, .inr fun n hn => by cases hn; exact Nat.zero_le _, .inl rfl⟩
  | measured f clean => exact ⟨rfl, rfl, .inl rfl, .inr (measured_run r f clean), .inl rfl⟩
  | faulted => exact ⟨rfl, rfl, .inl rfl, .inl rfl, .inr rfl⟩
  | tallyCleared => exact ⟨rfl, rfl, .inr (Nat.zero_le _), .inl rfl, .inl rfl⟩
  | completed =>
    unfold Record.closeCompleted
    split
    · exact ⟨rfl, rfl, .inr (Nat.min_le_left _ _), .inl rfl, .inl rfl⟩
    · exact .refl r
  | ordinary => unfold Record.madeOrdinary; split <;> exact ⟨rfl, rfl, .inl rfl, .inl rfl, .inl rfl⟩
  | restored => unfold Record.restored; split <;> exact ⟨rfl, rfl, .inl rfl, .inl rfl, .inl rfl⟩
  | granted => unfold Record.closeGranted; split <;> exact ⟨rfl, rfl, .inl rfl, .inl rfl, .inl rfl⟩
  | timedOut => unfold Record.closeTimedOut; split <;> exact ⟨rfl, rfl, .inl rfl, .inl rfl, .inl rfl⟩
  | openConfirmed => unfold Record.openConfirmed; split <;> exact ⟨rfl, rfl, .inl rfl, .inl rfl, .inl rfl⟩
  | openEnded => unfold Record.openEnded; split <;> exact ⟨rfl, rfl, .inl rfl, .inl rfl, .inl rfl⟩
  | second => unfold Record.secondPassed; split <;> exact ⟨rfl, rfl, .inl rfl, .inl rfl, .inl rfl⟩
  | follow closed =>
    unfold Record.follow
    split <;> (try split) <;> exact ⟨rfl, rfl, .inl rfl, .inl rfl, .inl rfl⟩

/-- None of the single changes gives a record an offset. -/
theorem RecordMove.offset {ps : Params} {st : EngineState} {amend : Bool} {r r' : Record}
    (h : RecordMove ps st amend r r') : r'.offset = r.offset ∨ r'.offset = none := by
  rcases h.follows with rfl | hf
  · exact .inr rfl
  · exact hf.offset

/-! ## Counts (R3, R39, R42) -/

/-- The counts of one record stay within their ranges (R3, R39). -/
structure Record.Counted (r : Record) : Prop where
  tally : r.tally ≤ 15
  run : ∀ n, r.cleanRun = some n → n ≤ 31

theorem Record.initial_counted : Record.initial.Counted where
  tally := Nat.zero_le _
  run := fun _ h => by cases h

/-- A record whose tally and clean-frame run stand keeps its counts. -/
theorem Record.Counted.same {r r' : Record} (h : r.Counted) (ht : r'.tally = r.tally)
    (hc : r'.cleanRun = r.cleanRun) : r'.Counted where
  tally := ht ▸ h.tally
  run := hc ▸ h.run

theorem RecordMove.keeps_counted {ps : Params} {st : EngineState} {amend : Bool} {r r' : Record}
    (h : RecordMove ps st amend r r') (hr : r.Counted) : r'.Counted := by
  rcases h.follows with rfl | hf
  · exact ⟨Nat.zero_le _, nofun⟩
  · exact ⟨hf.tally.elim (fun e => e ▸ hr.tally) id, hf.run.elim (fun e => e ▸ hr.run) id⟩

/-- The counts of the part are those of its records and of its receivers. -/
theorem counted_iff (s : State) :
    s.Counted ↔ (∀ p, (s.record p).Counted) ∧ ∀ ch, (s.link ch).rx.score ≤ 63 := by
  constructor
  · rintro ⟨htally, hrun, hscore⟩
    exact ⟨fun p => ⟨htally p, hrun p⟩, hscore⟩
  · rintro ⟨hrec, hscore⟩
    exact ⟨fun p => (hrec p).tally, fun p => (hrec p).run, hscore⟩

/-- The counts of a record over an elementary change. -/
theorem RecordChange.keeps_counted {may : Grants} {s t : State} {p : Pos} (h : RecordChange may s t p)
    (hr : (s.record p).Counted) : (t.record p).Counted := by
  cases h with
  | same h => rwa [h]
  | moved h => exact h.keeps_counted hr
  | committed parked hc h =>
    rw [h]
    unfold Record.committed
    split
    · split <;> exact hr.same rfl rfl
    · exact hr
  | enrolled ch serial tally dormant _ h =>
    rw [h]
    exact ⟨Nat.min_le_left _ _, fun n hn => by cases hn; exact Nat.zero_le _⟩
  | reset _ h => exact h p ▸ Record.initial_counted

/-- Of the elementary changes only those of a link and a reset reach an error score (R37, R42, R51). -/
theorem Move.linkMove {may : Grants} {s t : State} (h : Move may s t) (ch : Chan) :
    LinkMove (s.link ch) (t.link ch) ∨ t.link ch = Link.initial := by
  cases h with
  | aside t h1 h2 h3 h4 h5 h6 => exact .inl (.inl (by rw [State.link_congr h3]))
  | link c l hl =>
    by_cases hc : ch = c
    · subst hc
      exact .inl (by rwa [State.link_setLink_same])
    · exact .inl (.inl (by rw [State.link_setLink_ne s c ch l hc]))
  | transmitters f => exact .inl (.inl (by simp [State.link, State.setLinks]))
  | reset m r hr => exact .inr (blocksReset_link s m r ch)
  | record q r hr => exact .inl (.inl (by rw [State.setRecord_link]))
  | records f hf => exact .inl (.inl (by rw [State.mapRecords_link]))
  | commit parked hc => exact .inl (.inl (by rw [State.commitRoster_link]))
  | enrol q c serial tally dormant hr => exact .inl (.inl (by rw [State.setRecord_link]))
  | engine e he => exact .inl (.inl (by rw [State.setEngine_link]))
  | publisher x hx => exact .inl (.inl (by rw [State.setPublisher_link]))
  | tables x hx => exact .inl (.inl (by rw [State.setTables_link]))
  | params n lo hi v hr hc => exact .inl (.inl (by rw [State.setParams_link]))

theorem LinkMove.keeps_score {l l' : Link} (h : LinkMove l l') (hl : l.rx.score ≤ 63) : l'.rx.score ≤ 63 := by
  rcases h with h | h | h <;> rw [h]
  · exact hl
  · exact (Nat.sub_le _ _).trans hl
  · exact Nat.min_le_left _ _

theorem Move.keeps_counted {may : Grants} {s t : State} (h : Move may s t) (hs : s.Counted) : t.Counted := by
  obtain ⟨hrec, hscore⟩ := (counted_iff s).mp hs
  refine (counted_iff t).mpr ⟨fun p => (h.recordChange p).keeps_counted (hrec p), fun ch => ?_⟩
  rcases h.linkMove ch with hl | hl
  · exact hl.keeps_score (hscore ch)
  · rw [hl]
    exact Nat.zero_le _

/-! ## Carrier offsets (R94, R133) -/

/-- A share of k parts in m of a whole, rounded to the nearest integer with halves up, lies as far from it as a
half at most (R132). -/
theorem rounded_bounds (a m : Nat) (hm : 0 < m) :
    2 * m * ((2 * a + m) / (2 * m)) ≤ 2 * a + m ∧ 2 * a + m < 2 * m * ((2 * a + m) / (2 * m) + 1) :=
  ⟨Nat.mul_div_le _ _, Nat.lt_mul_div_succ _ (by omega)⟩

theorem beta_bounds (k m : Nat) (hm : 0 < m) :
    2 * m * beta k m ≤ 65536 * k + m ∧ 65536 * k + m < 2 * m * (beta k m + 1) := by
  have h := rounded_bounds (k * 32768) m hm
  have e : 2 * (k * 32768) + m = 65536 * k + m := by omega
  have eb : beta k m = (65536 * k + m) / (2 * m) := by
    unfold beta
    congr 1
    omega
  rwa [e, ← eb] at h

theorem sigma_bounds (q m : Nat) (hm : 0 < m) :
    6 * m * sigma q m ≤ 65536 * q + 3 * m ∧ 65536 * q + 3 * m < 6 * m * (sigma q m + 1) := by
  have h := rounded_bounds (q * 32768) (3 * m) (by omega)
  have e : 2 * (q * 32768) + 3 * m = 65536 * q + 3 * m := by omega
  have e6 : 2 * (3 * m) = 6 * m := by omega
  have es : sigma q m = (65536 * q + 3 * m) / (6 * m) := by
    unfold sigma
    congr 1
    omega
  rwa [e, e6, ← es] at h

/-- The carrier offsets of a phase of at most ten modulating records are 32767 at most (R133). -/
theorem offset_range {k m q : Nat} (hk : k < m) (hm : m ≤ 10) (hq : q ≤ 2) : beta k m + sigma q m ≤ 32767 := by
  obtain ⟨hb, -⟩ := beta_bounds k m (by omega)
  obtain ⟨hs, -⟩ := sigma_bounds q m (by omega)
  by_contra hlt
  have hmul : 6 * m * 32768 ≤ 6 * m * (beta k m + sigma q m) := Nat.mul_le_mul_left _ (by omega)
  have hsplit : 6 * m * (beta k m + sigma q m) = 3 * (2 * m * beta k m) + 6 * m * sigma q m := by ring
  omega

theorem RecordState.active_iff (st : RecordState) :
    st.active = true ↔ st = .inService ∨ st = .parked ∨ st = .probation := by
  cases st <;> simp [RecordState.active]

/-- A position that modulates stands in the list of its phase's modulating records (R131). -/
theorem mem_modulating {s : State} {parked : List Pos} {p : Pos} {q : Nat} :
    p ∈ modulating s.roster parked q ↔ phaseOf p = q ∧ (s.record p).state.active = true ∧ p ∉ parked := by
  simp [modulating, candidates, phasePositions, allPositions, State.record]
  tauto

theorem phasePositions_length (q : Nat) : (phasePositions q).length ≤ 10 := by
  by_cases hq : q < 3
  · interval_cases q <;> decide
  · have hnone : phasePositions q = [] := by
      refine List.filter_eq_nil_iff.mpr fun p _ => ?_
      simp only [phaseOf, beq_iff_eq]
      omega
    rw [hnone]
    exact Nat.zero_le _

theorem modulating_length (roster : Vector Record 30) (parked : List Pos) (q : Nat) :
    (modulating roster parked q).length ≤ 10 :=
  ((List.length_filter_le _ _).trans (List.length_filter_le _ _)).trans (phasePositions_length q)

/-- The number of a modulating record in its phase is below the number of them (R131). -/
theorem number_lt_modulating {s : State} {parked : List Pos} {p : Pos} (ha : (s.record p).state.active = true)
    (hp : p ∉ parked) :
    ((modulating s.roster parked (phaseOf p)).filter fun q => rankOf q < rankOf p).length <
      (modulating s.roster parked (phaseOf p)).length :=
  List.length_filter_lt_length_iff_exists.mpr ⟨p, mem_modulating.mpr ⟨rfl, ha, hp⟩, by simp⟩

theorem phaseOf_le (p : Pos) : phaseOf p ≤ 2 := by
  unfold phaseOf
  omega

theorem carrierOffset_range {s : State} {parked : List Pos} {p : Pos} (ha : (s.record p).state.active = true)
    (hp : p ∉ parked) : carrierOffset s.roster parked p ≤ 32767 :=
  offset_range (number_lt_modulating ha hp) (modulating_length _ _ _) (phaseOf_le p)

/-- The offset of one record in its range, and held in IN_SERVICE and PROBATION alone (R133). -/
structure Record.OffsetKept (r : Record) : Prop where
  range : ∀ n, r.offset = some n → n ≤ 32767
  holder : r.offset.isSome → r.state = .inService ∨ r.state = .probation

theorem Record.OffsetKept.of_none {r : Record} (h : r.offset = none) : r.OffsetKept where
  range := fun n hn => by rw [h] at hn; cases hn
  holder := fun hs => by rw [h] at hs; cases hs

/-- A record whose offset stands keeps it lawful, where its state stands or is one that holds offsets. -/
theorem Record.OffsetKept.same {r r' : Record} (h : r.OffsetKept) (ho : r'.offset = r.offset)
    (hs : r'.state = r.state ∨ r'.state = .inService ∨ r'.state = .probation) : r'.OffsetKept where
  range := ho ▸ h.range
  holder := fun hi => hs.elim (fun e => e ▸ h.holder (ho ▸ hi)) id

/-- The single changes that leave IN_SERVICE or PROBATION take the offset with them, but for the CONFIG follow,
where none is held (R18, R94). -/
theorem RecordMove.state_of_offset {ps : Params} {st : EngineState} {amend : Bool} {r r' : Record}
    (h : RecordMove ps st amend r r') (hs : r.state = .inService ∨ r.state = .probation)
    (hc : st ≠ .config) (ho : r'.offset ≠ none) : r'.state = .inService ∨ r'.state = .probation := by
  cases h with
  | faulted | retired => exact absurd rfl ho
  | contact | run | measured | relisted => exact hs
  | probationDone => exact .inl rfl
  | follow _ hst => exact absurd hst hc
  | readmitted hb => rcases hs with hs | hs <;> rw [hs] at hb <;> cases hb
  | second => unfold Record.secondPassed; split <;> exact hs
  | contactOpen | tallyCleared =>
    rcases hs with hs | hs <;> simp [Record.contactOpenTaken, Record.tallyCleared, hs]
  | completed | ordinary | restored | granted | timedOut | openConfirmed | openEnded =>
    rcases hs with hs | hs <;>
      simp [Record.closeCompleted, Record.madeOrdinary, Record.restored, Record.closeGranted,
        Record.closeTimedOut, Record.openConfirmed, Record.openEnded, hs]

theorem RecordMove.keeps_offset {ps : Params} {st : EngineState} {amend : Bool} {r r' : Record}
    (h : RecordMove ps st amend r r') (hc : st = .config → r.offset = none) (hr : r.OffsetKept) :
    r'.OffsetKept := by
  by_cases hn : r'.offset = none
  · exact .of_none hn
  · have ho : r'.offset = r.offset := h.offset.resolve_right hn
    have hs : r.offset.isSome := by
      rw [← ho]
      exact Option.isSome_iff_ne_none.mpr hn
    exact hr.same ho (.inr (h.state_of_offset (hr.holder hs) (fun e => hn (ho.trans (hc e))) hn))

/-- A commit leaves offsets in their range with records that modulate (R15, R133). -/
theorem committed_offsetKept {s : State} {parked : List Pos} {p : Pos} (hr : (s.record p).OffsetKept) :
    ((s.record p).committed (parked.contains p) (carrierOffset s.roster parked p)).OffsetKept := by
  unfold Record.committed
  split
  · next ha =>
    split
    · exact .of_none rfl
    · next hp =>
      refine ⟨fun n hn => ?_, fun _ => ?_⟩
      · cases hn
        exact carrierOffset_range ha (by simpa using hp)
      · split
        · split
          · exact .inr rfl
          · exact .inl rfl
        · next hpark => exact ((RecordState.active_iff _).mp ha).elim .inl fun h => h.elim (absurd · hpark) .inr
  · exact hr

/-- No elementary change but a reset, which empties the roster, leads to CONFIG (R94). -/
theorem Move.to_config {may : Grants} {s t : State} (h : Move may s t) (hc : t.engine.state = .config) :
    s.engine.state = .config ∨ ∀ p, t.record p = Record.initial := by
  cases h with
  | aside t h1 h2 h3 h4 h5 h6 => exact .inl (h4 ▸ hc)
  | engine e he => exact .inl (he.1.elim (fun a => a ▸ hc) fun a => absurd hc a)
  | reset m r hm => exact .inr (blocksReset_record s m r)
  | records f _ => exact .inl (by rwa [State.mapRecords_engine] at hc)
  | commit l _ => exact .inl (by rwa [State.commitRoster_engine] at hc)
  | _ => exact .inl hc

theorem RecordChange.keeps_offset {may : Grants} {s t : State} {p : Pos} (h : RecordChange may s t p)
    (hc : s.engine.state = .config → (s.record p).offset = none) (hr : (s.record p).OffsetKept) :
    (t.record p).OffsetKept := by
  cases h with
  | same h => rwa [h]
  | moved h => exact h.keeps_offset hc hr
  | committed parked _ h => exact h ▸ committed_offsetKept hr
  | enrolled ch serial tally dormant _ h => exact .of_none (h ▸ rfl)
  | reset _ h => exact .of_none (h p ▸ rfl)

/-- In CONFIG no elementary change gives an offset. -/
theorem RecordChange.keeps_none {may : Grants} {s t : State} {p : Pos} (h : RecordChange may s t p)
    (hc : s.engine.state = .config) (hr : (s.record p).offset = none) : (t.record p).offset = none := by
  cases h with
  | same h => rwa [h]
  | moved h => exact h.offset.elim (fun e => e.trans hr) id
  | committed _ hn _ => exact absurd hc hn
  | enrolled ch serial tally dormant _ h => rw [h]; rfl
  | reset _ h => rw [h p]; rfl

theorem offsetsKept_record {s : State} (h : s.OffsetsKept) (p : Pos) : (s.record p).OffsetKept :=
  ⟨h.range p, h.holder p⟩

theorem Move.keeps_offsets {may : Grants} {s t : State} (h : Move may s t) (hs : s.OffsetsKept) :
    t.OffsetsKept := by
  have hrec (p : Pos) : (t.record p).OffsetKept :=
    (h.recordChange p).keeps_offset (fun hc => hs.config hc p) (offsetsKept_record hs p)
  refine ⟨fun p => (hrec p).range, fun p => (hrec p).holder, fun hc p => ?_⟩
  rcases h.to_config hc with hsc | hinit
  · exact (h.recordChange p).keeps_none hsc (hs.config hsc p)
  · rw [hinit p]
    rfl

/-! ## The two indexes (R2) -/

theorem committed_names (r : Record) (parked : Bool) (offset : Nat) :
    (r.committed parked offset).channel = r.channel ∧ (r.committed parked offset).serial = r.serial := by
  unfold Record.committed
  split
  · split <;> exact ⟨rfl, rfl⟩
  · exact ⟨rfl, rfl⟩

/-- A channel stands after an elementary change where it stood before, but for the channel that an ENROL brings,
which stood nowhere; and so does a serial tag (R2, R25). -/
theorem RecordChange.names {may : Grants} {s t : State} {p : Pos} (h : RecordChange may s t p) :
    ((∀ ch, (t.record p).channel = some ch → (s.record p).channel = some ch) ∧
      ∀ tag, (t.record p).serial = some tag → (s.record p).serial = some tag) ∨
    (s.OtherRecords t p ∧
      (∀ ch, (t.record p).channel = some ch → ∀ q, (s.record q).channel ≠ some ch) ∧
      ∀ tag, (t.record p).serial = some tag → ∀ q, (s.record q).serial ≠ some tag) := by
  cases h with
  | same h => exact .inl (by rw [h]; exact ⟨fun _ => id, fun _ => id⟩)
  | moved h =>
    rcases h.follows with hr | hf
    · rw [hr]
      exact .inl ⟨nofun, nofun⟩
    · rw [hf.channel, hf.serial]
      exact .inl ⟨fun _ => id, fun _ => id⟩
  | committed parked _ h =>
    obtain ⟨hc, hs⟩ := committed_names (s.record p) (parked.contains p) (carrierOffset s.roster parked p)
    rw [h, hc, hs]
    exact .inl ⟨fun _ => id, fun _ => id⟩
  | enrolled ch serial tally dormant hr h ho =>
    obtain ⟨-, hch, hser⟩ := enrolRefusal_none hr
    rw [h]
    refine .inr ⟨ho, fun c hc => ?_, fun tag ht => ?_⟩
    · cases hc
      exact State.channelPos_none hch
    · cases ht
      exact State.serialPos_none hser
  | reset _ h =>
    rw [h p]
    exact .inl ⟨nofun, nofun⟩

/-- A name held by no two records is held by no two after a change under which each record keeps names it held,
or is the only one to change and takes a name held nowhere. -/
theorem unique_of_names {α : Type} {before after : Pos → Option α}
    (hb : ∀ p q a, before p = some a → before q = some a → p = q)
    (h : ∀ p, (∀ a, after p = some a → before p = some a) ∨
      ((∀ q, q ≠ p → after q = before q) ∧ ∀ a, after p = some a → ∀ q, before q ≠ some a))
    (p q : Pos) (a : α) (hp : after p = some a) (hq : after q = some a) : p = q := by
  by_contra hne
  rcases h p with hkept | ⟨hother, hnew⟩
  · rcases h q with hkept' | ⟨hother', hnew'⟩
    · exact hne (hb p q a (hkept a hp) (hkept' a hq))
    · exact hnew' a hq p (hother' p hne ▸ hp)
  · exact hnew a hp q (hother q (Ne.symm hne) ▸ hq)

theorem Move.keeps_indexed {may : Grants} {s t : State} (h : Move may s t) (hs : s.Indexed) : t.Indexed where
  channel := unique_of_names hs.channel fun p => (h.recordChange p).names.imp (fun hk => hk.1)
    fun hn => ⟨fun q hq => by rw [hn.1 q hq], hn.2.1⟩
  serial := unique_of_names hs.serial fun p => (h.recordChange p).names.imp (fun hk => hk.2)
    fun hn => ⟨fun q hq => by rw [hn.1 q hq], hn.2.2⟩

/-- Settles O54: every step is a chain of elementary changes, and each keeps the three laws. -/
theorem everyStepKeepsTheRosterLaws : Obligations.EveryStepKeepsTheRosterLaws := by
  intro s t hstep
  have hmoves := step_moves s t hstep
  exact ⟨hmoves.keeps fun _ _ => Move.keeps_counted, hmoves.keeps fun _ _ => Move.keeps_offsets,
    hmoves.keeps fun _ _ => Move.keeps_indexed⟩

/-! ## QUARANTINED records (R19) -/

/-- None of the part's own single changes takes a record out of QUARANTINED; the two that do are the host's. -/
theorem RecordMove.keeps_quarantined {ps : Params} {st : EngineState} {r r' : Record}
    (h : RecordMove ps st false r r') (hq : r.state = .quarantined) : r'.state = .quarantined := by
  cases h with
  | contact | run | measured | relisted => exact hq
  | faulted _ _ _ ha => rw [hq] at ha; cases ha
  | probationDone hp => rw [hq] at hp; cases hp
  | readmitted hb => rw [hq] at hb; cases hb
  | retired ha | tallyCleared ha => cases ha
  | contactOpen => simp [Record.contactOpenTaken, hq]
  | ordinary => simp [Record.madeOrdinary, hq]
  | restored => simp [Record.restored, hq]
  | granted => simp [Record.closeGranted, hq]
  | completed => simp [Record.closeCompleted, hq]
  | timedOut => simp [Record.closeTimedOut, hq]
  | openConfirmed => simp [Record.openConfirmed, hq]
  | openEnded => simp [Record.openEnded, hq]
  | second => simp [Record.secondPassed, hq]
  | follow => simp [Record.follow, hq]

theorem RecordChange.keeps_quarantined {may : Grants} {s t : State} {p : Pos} (h : RecordChange may s t p)
    (hrel : may.releases p = false) (hres : may.resets = false) (hq : (s.record p).state = .quarantined) :
    (t.record p).state = .quarantined := by
  cases h with
  | same h => rwa [h]
  | moved h => rw [hrel] at h; exact h.keeps_quarantined hq
  | committed parked _ h => rw [h]; simp [Record.committed, RecordState.active, hq]
  | enrolled ch serial tally dormant hr _ =>
    obtain ⟨hempty, -⟩ := enrolRefusal_none hr
    rw [hq] at hempty
    cases hempty
  | reset hr _ => rw [hres] at hr; cases hr

/-- Settles O58: a command is a chain of elementary changes with what its request, direct or framed, is granted,
and without RETIRE, CLEAR_TALLY and a reset none of them takes the record out of QUARANTINED. -/
theorem quarantineEndsByRequestAlone : Obligations.QuarantineEndsByRequestAlone := by
  intro c p s t hexec hrel hres hq
  exact (exec_moves c s t hexec).keeps (P := fun u => (u.record p).state = .quarantined)
    (fun _ _ hm => (hm.recordChange p).keeps_quarantined hrel hres) hq

end Sys2Proof.Machine
end

section
/-! Proofs: the host's requests on records, those that read (R21 to R24) and those that amend (R25 to R28). -/

namespace Sys2Proof.Machine

/-! ## Requests that read -/

/-- A presence or mark byte (R201). -/
theorem item1_bitCode (b : Bool) : item1 (bitCode b) = [if b then 0x01 else 0x00] := by
  cases b <;> rfl

/-- Settles O4: the payload of LOOKUP is `recordPayload`, item by item. -/
theorem lookupReturnsWholeRecord : Obligations.LookupReturnsWholeRecord := by
  intro tag s hm
  refine ⟨fun p r hr => hr ▸ performs_of hm rfl ?_ rfl, fun b hb => refuses_of hm rfl ?_⟩
  · unfold requestLookup
    rw [posOfByte_posByte]
    simp only [State.reply, Reply.done, recordPayload, item1_bitCode]
    simp only [item1, posByte, List.append_assoc, List.cons_append, List.nil_append]
  · unfold requestLookup
    rw [posOfByte_above hb]

theorem serialPos_unheld {s : State} {serial : BitVec 32} (h : ∀ p, (s.record p).serial ≠ some serial) :
    s.serialPos serial = none := by
  cases hp : s.serialPos serial with
  | none => rfl
  | some p => exact absurd (State.serialPos_some hp) (h p)

/-- Settles O5: each request reads its index, which finds the one position that holds the name. -/
theorem findRequestsReadTheIndexes : Obligations.FindRequestsReadTheIndexes := by
  intro tag s hm
  refine ⟨fun ch p h => performs_of hm rfl ?_ rfl, fun ch h => refuses_of hm rfl ?_,
    fun c h => refuses_of hm rfl ?_, fun serial p h0 h hu => performs_of hm rfl ?_ rfl,
    fun serial h0 h => refuses_of hm rfl ?_, refuses_of hm rfl rfl⟩
  · unfold requestFindChannel
    rw [chanOfByte_chanByte]
    dsimp only
    rw [channelPos_assigned h]
    rfl
  · unfold requestFindChannel
    rw [chanOfByte_chanByte]
    dsimp only
    rw [channelPos_unassigned h]
  · unfold requestFindChannel
    rw [chanOfByte_above h]
  · unfold requestFindSerial
    rw [if_neg h0, State.serialPos_eq h hu]
    rfl
  · unfold requestFindSerial
    rw [if_neg h0, serialPos_unheld h]

theorem RecordState.ofCode_code (st : RecordState) : RecordState.ofCode (byteOf st.code).toNat = some st := by
  cases st <;> rfl

theorem RecordState.ofCode_above {n : Nat} (h : 8 < n) : RecordState.ofCode n = none := by
  obtain ⟨m, rfl⟩ := Nat.exists_eq_add_of_le' h
  rfl

/-- The record states in the order of their codes (R1). -/
def recordStates : List RecordState :=
  [.empty, .inService, .parked, .probation, .faulted, .closing, .bypassed, .opening, .quarantined]

/-- Each position is counted under exactly one record state. -/
theorem sum_of_states (f : Pos → RecordState) (l : List Pos) :
    (recordStates.map fun st => (l.filter fun p => f p == st).length).sum = l.length := by
  induction l with
  | nil => rfl
  | cons p l ih =>
    rw [List.length_cons, ← ih]
    cases h : f p <;> simp [recordStates, List.filter_cons, h] <;> omega

/-- Settles O6: the list of a state is the filter of the positions in their order. -/
theorem listReturnsPositionsInState : Obligations.ListReturnsPositionsInState := by
  intro tag s hm
  refine ⟨fun st => ⟨s.positionsIn st, ?_, fun p => ?_, performs_of hm rfl ?_ rfl⟩,
    fun c hc => refuses_of hm rfl ?_, ?_⟩
  · exact (List.pairwise_lt_finRange 30).filter _
  · simp [State.positionsIn, allPositions]
  · unfold requestList
    rw [RecordState.ofCode_code]
    rfl
  · unfold requestList
    rw [RecordState.ofCode_above hc]
  · exact (sum_of_states (fun p => (s.record p).state) allPositions).trans List.length_finRange

/-! ## ENROL (R25, R26) -/

/-- An ENROL whose arguments are in range is refused by the first of R25's checks that fails. -/
theorem requestEnrol_refused {p : Pos} {ch : Chan} {serial : BitVec 32} (h0 : serial ≠ 0) {s : State}
    {code : AnswerCode} (h : s.enrolRefusal p ch serial = some code) (tally : Byte) :
    requestEnrol (posByte p) (chanByte ch) serial tally s = s.reply (.refusal code) := by
  unfold requestEnrol
  rw [posOfByte_posByte, chanOfByte_chanByte]
  simp only [if_neg h0, h]

/-- An ENROL that passes the checks of R25 writes its record (R26). -/
theorem requestEnrol_accepted {p : Pos} {ch : Chan} {serial : BitVec 32} (h0 : serial ≠ 0) {s : State}
    (h : s.enrolRefusal p ch serial = none) (tally : Byte) :
    requestEnrol (posByte p) (chanByte ch) serial tally s =
      let r := (s.record p).enrolled ch serial tally.toNat (s.engine.state == .dormant) s.params
      { reply := { code := if 15 < tally.toNat then .clamped else .done, payload := item1 r.state.code }
        state := s.setRecord p r } := by
  unfold requestEnrol
  rw [posOfByte_posByte, chanOfByte_chanByte]
  simp only [if_neg h0, h]

theorem requestEnrol_badArgument {position channel : Byte} {serial : BitVec 32}
    (h : 30 ≤ position.toNat ∨ 32 ≤ channel.toNat ∨ serial = 0) (tally : Byte) (s : State) :
    requestEnrol position channel serial tally s = s.reply (.refusal .badArgument) := by
  unfold requestEnrol
  split
  · next p ch hp hch =>
    have hpos : ¬30 ≤ position.toNat := fun a => by rw [posOfByte_above a] at hp; cases hp
    have hchan : ¬32 ≤ channel.toNat := fun a => by rw [chanOfByte_above a] at hch; cases hch
    exact if_pos ((h.resolve_left hpos).resolve_left hchan)
  · rfl
  · rfl

theorem State.isUsed_iff (s : State) (ch : Chan) (serial : BitVec 32) :
    ((s.channelPos ch).isSome ∨ (s.serialPos serial).isSome) ↔
      (∃ q, (s.record q).channel = some ch) ∨ ∃ q, (s.record q).serial = some serial := by
  simp [State.channelPos, State.serialPos, allPositions]

/-- Settles O12: the record of R26 field by field, and each refusal by the first check that fails. -/
theorem enrolSetsTheRecordOrIsRefused : Obligations.EnrolSetsTheRecordOrIsRefused := by
  refine ⟨fun tag tally p ch serial s hm h0 hmode hempty hch hser hcon => ?_,
    fun tag position channel tally serial s hm => ⟨fun h => refuses_of hm rfl ?_, ?_⟩⟩
  · have hpass : s.enrolRefusal p ch serial = none := by
      unfold State.enrolRefusal
      have hmode' : ¬(s.engine.state ≠ .config ∧ s.engine.state ≠ .dormant) := by tauto
      have hused : ¬((s.channelPos ch).isSome ∨ (s.serialPos serial).isSome) := by
        rw [channelPos_unassigned hch, serialPos_unheld hser]
        simp
      rw [if_neg hmode', if_neg (not_not.mpr hempty), if_neg hused, if_neg hcon]
    refine ⟨(s.record p).enrolled ch serial tally.toNat (s.engine.state == .dormant) s.params,
      performs_of hm rfl ?_ rfl, rfl, rfl, Nat.min_comm _ _, rfl, rfl, rfl, rfl, rfl, rfl, rfl, rfl, rfl, rfl,
      fun hc hq => ?_, fun hc hq => ?_, fun hc he => ?_, fun hc he => ?_⟩
    · exact requestEnrol_accepted h0 hpass tally
    · have hq' : ¬s.params.qLim ≤ min 15 tally.toNat := by omega
      simp [Record.enrolled, hc, hq']
    · have hq' : s.params.qLim ≤ min 15 tally.toNat := by omega
      simp [Record.enrolled, hc, hq']
    · simp [Record.enrolled, hc, he]
    · simp [Record.enrolled, hc, he]
  · exact requestEnrol_badArgument h tally s
  · rintro p ch rfl rfl h0
    have hrefused (code : AnswerCode) (h : s.enrolRefusal p ch serial = some code) :
        s.Refuses (.enrol tag (posByte p) (chanByte ch) serial tally) tag code :=
      refuses_of hm rfl (requestEnrol_refused h0 h tally)
    rw [← State.isUsed_iff]
    refine ⟨fun hmode => hrefused _ ?_, fun hmode hst => hrefused _ ?_, fun hmode hst hused => hrefused _ ?_,
      fun hmode hst hused hcon => hrefused _ ?_⟩ <;> unfold State.enrolRefusal
    · rw [if_pos (by tauto)]
    · rw [if_neg (by tauto), if_pos hst]
    · rw [if_neg (by tauto), if_neg (not_not.mpr hst), if_pos hused]
    · rw [if_neg (by tauto), if_neg (not_not.mpr hst), if_neg hused, if_pos hcon]

/-! ## RETIRE (R27, R49) and READMIT (R28) -/

theorem unassign_frame (s : State) (ch : Option Chan) : s.ChangesOnly (s.unassign ch) [.links] := by
  cases ch with
  | none => exact .refl s _
  | some c => exact setTx_frame s c _

/-- The fault-reset latch of a channel that becomes unassigned is cleared, and no other link changes (R49). -/
theorem unassign_link (s : State) (ch : Option Chan) (c : Chan) :
    (s.unassign ch).link c =
      if ch = some c then { s.link c with tx := { (s.link c).tx with faultReset := false } } else s.link c := by
  cases ch with
  | none => rfl
  | some d =>
    by_cases hd : d = c
    · subst hd
      rw [if_pos rfl]
      exact setTx_link s d _
    · rw [if_neg (by simpa using hd)]
      exact setTx_other s d _ c (Ne.symm hd)

/-- Settles O13: RETIRE clears the latch of its channel, then empties its record. -/
theorem retireEmptiesThePosition : Obligations.RetireEmptiesThePosition := by
  intro tag s hm
  refine ⟨fun b hb => refuses_of hm rfl ?_, fun p => ⟨fun hempty => refuses_of hm rfl ?_,
    fun hheld hnot => refuses_of hm rfl ?_, fun hheld hadm => ?_⟩⟩
  · unfold requestRetire
    rw [posOfByte_above hb]
  · unfold requestRetire
    rw [posOfByte_posByte]
    exact if_pos hempty
  · unfold requestRetire
    rw [posOfByte_posByte]
    dsimp only
    rw [if_neg hheld, if_pos (by tauto)]
  · have hf := unassign_frame s (s.record p).channel
    have hrec (q : Pos) : (s.unassign (s.record p).channel).record q = s.record q :=
      State.record_congr (hf .roster (by decide)) q
    refine ⟨(s.unassign (s.record p).channel).setRecord p (s.record p).retired,
      performs_of hm rfl ?_ (hf .time (by decide)), State.record_setRecord_same _ _ _,
      fun q hq => (State.record_setRecord_ne _ _ _ _ hq).trans (hrec q), fun ch hch => ?_, fun ch hch => ?_,
      (hf.more (by decide)).trans ((setRecord_frame _ p _).more (by decide))⟩
    · unfold requestRetire
      rw [posOfByte_posByte]
      dsimp only
      rw [if_neg hheld, if_neg (by tauto)]
      rfl
    · rw [State.setRecord_link, unassign_link, if_pos hch]
      exact ⟨rfl, rfl⟩
    · rw [State.setRecord_link, unassign_link, if_neg hch]

/-- Settles O14: the OPEN entry takes its place by `insertEntry`. -/
theorem readmitListsAnOpenEntry : Obligations.ReadmitListsAnOpenEntry := by
  intro tag s hm
  refine ⟨fun b hb => refuses_of hm rfl ?_, fun p => ⟨fun hmode => refuses_of hm rfl ?_,
    fun hmode hst => refuses_of hm rfl ?_,
    fun hmode hst => ⟨_, insertEntry_joins _ s.matrix.orders, performs_of hm rfl ?_ rfl⟩⟩⟩
  · unfold requestReadmit
    rw [posOfByte_above hb]
  · unfold requestReadmit
    rw [posOfByte_posByte]
    exact if_pos hmode
  · unfold requestReadmit
    rw [posOfByte_posByte]
    dsimp only
    rw [if_neg (not_not.mpr hmode), if_pos hst]
  · unfold requestReadmit
    rw [posOfByte_posByte]
    dsimp only
    rw [if_neg (not_not.mpr hmode), if_neg (not_not.mpr hst)]
    rfl

end Sys2Proof.Machine
end

section
/-! Proofs: the commit at the roster (R15, R131 to R134), the state after reset, and CLEAR_LOCKOUT (R12, R115). -/

namespace Sys2Proof.Machine

/-! ## The commit (R15, R131 to R134) -/

/-- The modulating records of a phase that satisfy a test, as a filter of all positions (R131). -/
theorem modulating_filter (s : State) (parked : List Pos) (q : Nat) (f : Pos → Bool) :
    (modulating s.roster parked q).filter f = allPositions.filter fun p =>
      p.val / 10 == q && ((s.record p).state.active && !parked.contains p) && f p := by
  unfold modulating candidates phasePositions
  simp only [List.filter_filter]
  congr 1
  funext p
  simp only [State.record, phaseOf]
  ac_rfl

/-- In one phase the rank orders the positions (R20). -/
theorem rankOf_lt_iff {p q : Pos} (h : q.val / 10 = p.val / 10) : rankOf q < rankOf p ↔ q.val < p.val := by
  unfold rankOf
  omega

/-- Settles O53: of the three cases of `Record.committed` the last gives the offset, with the bounds of its two
roundings and the range of their sum. -/
theorem commitGivesCarrierOffsets : Obligations.CommitGivesCarrierOffsets := by
  intro s parked p r isActive modulates u
  have hactive (q : Pos) : isActive q = (s.record q).state.active := by
    cases h : (s.record q).state <;> simp [isActive, h, RecordState.active]
  have hu : u.record p = r.committed (parked.contains p) (carrierOffset s.roster parked p) :=
    State.record_mapRecords s _ p
  rw [hactive, hu]
  unfold Record.committed
  refine ⟨fun ha => if_neg (by simp [r, ha]), fun ha hp => ?_, fun ha hp => ?_, commitRoster_frame s parked⟩
  · rw [if_pos ha, if_pos (by simpa using hp)]
  · obtain ⟨ms, hms⟩ : ∃ ms, ms = modulating s.roster parked (phaseOf p) := ⟨_, rfl⟩
    have hk := hms ▸ number_lt_modulating ha hp
    have hm : (allPositions.filter fun q => q.val / 10 == p.val / 10 && modulates q).length = ms.length := by
      rw [hms, ← List.filter_true (modulating _ _ _), modulating_filter]
      simp only [modulates, hactive, phaseOf, Bool.and_true]
    have hnum : (allPositions.filter fun q =>
        q.val / 10 == p.val / 10 && modulates q && decide (q.val < p.val)).length =
        (ms.filter fun q => rankOf q < rankOf p).length := by
      rw [hms, modulating_filter]
      refine congrArg List.length (List.filter_congr fun q _ => ?_)
      simp only [modulates, hactive, phaseOf]
      by_cases hq : q.val / 10 = p.val / 10
      · rw [decide_eq_decide.mpr (rankOf_lt_iff hq)]
      · rw [beq_false_of_ne hq]
        rfl
    refine ⟨beta (ms.filter fun q => rankOf q < rankOf p).length ms.length, sigma (phaseOf p) ms.length, ?_⟩
    dsimp only
    rw [hm, hnum, if_pos ha, if_neg (by simpa using hp)]
    obtain ⟨hb1, hb2⟩ := beta_bounds (ms.filter fun q => rankOf q < rankOf p).length ms.length (by omega)
    obtain ⟨hs1, hs2⟩ := sigma_bounds (phaseOf p) ms.length (by omega)
    refine ⟨?_, hb1, hb2, hs1, hs2, ?_⟩
    · subst hms
      cases hprob : r.probation <;> rfl
    · subst hms
      exact carrierOffset_range ha hp

/-! ## The state after reset -/

theorem reset_record (p : Pos) : State.reset.record p = Record.initial := by
  simp [State.record, State.reset]

theorem reset_link (ch : Chan) : State.reset.link ch = Link.initial := by
  simp [State.link, State.reset]

/-- The defaults of R192 lie in their ranges, and the pairs of R194 in order. -/
theorem Params.initial_kept : Params.initial.Kept where
  range := by
    intro n lo hi h
    by_cases hn : n < 26
    · interval_cases n <;> cases h <;> decide
    · obtain ⟨m, rfl⟩ := Nat.exists_eq_add_of_le' (Nat.not_lt.mp hn)
      cases h
  window := by decide
  verify := by decide
  voltage := by decide

theorem Tables.initial_sound : Tables.initial.Sound where
  capacity := by decide
  entries := nofun
  ascending := List.Pairwise.nil
  scale := by decide

/-- With nothing listed, the unit IDLE and every record EMPTY the switch laws hold. -/
theorem reset_switched : State.reset.Switched where
  alone := List.Pairwise.nil
  capacity := Nat.zero_le _
  closeEntry := nofun
  openEntry := nofun
  closePulse := nofun
  openPulse := nofun
  pulseAlone := nofun
  mark := fun p h => by rw [reset_record] at h; cases h
  prior := fun p h => by rw [reset_record] at h; cases h
  scan := nofun
  config := fun _ => ⟨rfl, rfl⟩
  stopped := fun _ => rfl

/-- Settles O60: each law by the initial value of what it speaks of. -/
theorem resetStateKeepsTheLaws : Obligations.ResetStateKeepsTheLaws := by
  refine ⟨(counted_iff _).mpr ⟨fun p => ?_, fun ch => ?_⟩, ⟨fun p => ?_, fun p => ?_, fun _ p => ?_⟩,
    ⟨fun p q ch h => ?_, fun p q tag h => ?_⟩,
    Tables.initial_sound, ⟨Params.initial_kept, Nat.zero_le _⟩, .inl rfl, reset_switched,
    fun h => absurd rfl h⟩
  · rw [reset_record]
    exact Record.initial_counted
  · rw [reset_link]
    exact Nat.zero_le _
  · rw [reset_record]
    exact nofun
  · rw [reset_record]
    exact nofun
  · rw [reset_record]
    rfl
  · rw [reset_record] at h
    cases h
  · rw [reset_record] at h
    cases h

end Sys2Proof.Machine
end

section
/-! Proofs: CLEAR_LOCKOUT (R12, R115). -/

namespace Sys2Proof.Machine

/-- The CLOSE entry without hold-off or hold that is listed for a position at a stamp (R6, R12, R76). -/
def plainClose (p : Pos) (stamp : Stamp) : Entry :=
  { pos := p, kind := .toClose, stamp := stamp, holdOff := false, holdOffRun := false, hold := false }

/-- The relisting of one record (R12). -/
theorem relist_spec (s : State) (p : Pos) :
    (s.relist p).record p = { s.record p with closeFailed := false } ∧ s.OtherRecords (s.relist p) p ∧
    (∀ e, e ∈ (s.relist p).matrix.orders ↔
      e ∈ s.matrix.orders ∨ ((s.record p).closeFailed = true ∧ e = plainClose p s.time)) ∧
    (s.relist p).matrix = { s.matrix with orders := (s.relist p).matrix.orders } ∧
    s.ChangesOnly (s.relist p) [.roster, .matrix] := by
  unfold State.relist
  split
  · next hf =>
    refine ⟨(State.record_congr rfl p).trans (State.record_setRecord_same s p _),
      fun q hq => (State.record_congr rfl q).trans (State.record_setRecord_ne s p q _ hq), fun e => ?_, rfl,
      ((setRecord_frame s p _).more (by decide)).trans ((listClose_frame _ _ _ _ _).more (by decide))⟩
    exact (mem_insertEntry (l := s.matrix.orders)).trans
      ⟨fun h => h.symm.imp_right fun he => ⟨hf, he⟩, fun h => h.symm.imp_left And.right⟩
  · next hf =>
    have hn : (s.record p).closeFailed = false := Bool.eq_false_of_not_eq_true hf
    refine ⟨?_, fun _ _ => rfl, fun e => ⟨.inl, fun h => h.resolve_right fun a => hf a.1⟩, rfl, .refl s _⟩
    rw [← hn]

/-- The relisting of every record of a list of positions (R12). -/
theorem relist_foldl (l : List Pos) (s : State) :
    let t := l.foldl State.relist s
    (∀ p ∈ l, t.record p = { s.record p with closeFailed := false }) ∧
    (∀ p, p ∉ l → t.record p = s.record p) ∧
    (∀ e, e ∈ t.matrix.orders ↔ e ∈ s.matrix.orders ∨
      ∃ p ∈ l, (s.record p).closeFailed = true ∧ e = plainClose p s.time) ∧
    t.matrix = { s.matrix with orders := t.matrix.orders } ∧ s.ChangesOnly t [.roster, .matrix] := by
  induction l generalizing s with
  | nil => exact ⟨nofun, fun _ _ => rfl, fun e => by simp, rfl, .refl s _⟩
  | cons q l ih =>
    obtain ⟨hq, hother, hmem, hmat, hframe⟩ := relist_spec s q
    obtain ⟨iin, iout, imem, imat, iframe⟩ := ih (s.relist q)
    have htime : (s.relist q).time = s.time := hframe .time (by decide)
    have hrec (p : Pos) : p = q ∨ (s.relist q).record p = s.record p := (em (p = q)).imp_right (hother p)
    have hcleared (p : Pos) :
        { (s.relist q).record p with closeFailed := false } = { s.record p with closeFailed := false } := by
      rcases hrec p with rfl | h
      · rw [hq]
      · rw [h]
    refine ⟨fun p hp => ?_, fun p hp => ?_, fun e => ?_, ?_, hframe.trans iframe⟩
    · by_cases hl : p ∈ l
      · exact (iin p hl).trans (hcleared p)
      · obtain rfl := (List.mem_cons.mp hp).resolve_right hl
        exact (iout p hl).trans hq
    · rw [List.mem_cons, not_or] at hp
      exact (iout p hp.2).trans (hother p hp.1)
    · show e ∈ (l.foldl State.relist (s.relist q)).matrix.orders ↔ _
      rw [imem e, hmem e, htime, or_assoc]
      refine or_congr_right ⟨?_, ?_⟩
      · rintro (⟨hf, he⟩ | ⟨p, hp, hf, he⟩)
        · exact ⟨q, List.mem_cons_self, hf, he⟩
        · refine ⟨p, List.mem_cons_of_mem q hp, ?_, he⟩
          rcases hrec p with rfl | h
          · rw [hq] at hf
            cases hf
          · rwa [h] at hf
      · rintro ⟨p, hp, hf, he⟩
        rcases hrec p with rfl | h
        · exact .inl ⟨hf, he⟩
        · rcases List.mem_cons.mp hp with rfl | hp
          · exact .inl ⟨hf, he⟩
          · exact .inr ⟨p, hp, h ▸ hf, he⟩
    · show (l.foldl State.relist (s.relist q)).matrix = _
      rw [imat, hmat]
      rfl

/-- Every record relisted, for CLEAR_LOCKOUT (R12). -/
theorem relistAll_spec (s : State) :
    let t := allPositions.foldl State.relist s
    (∀ p, t.record p = { s.record p with closeFailed := false }) ∧
    (∀ e, e ∈ t.matrix.orders ↔
      e ∈ s.matrix.orders ∨ ∃ p, (s.record p).closeFailed = true ∧ e = plainClose p s.time) ∧
    t.matrix = { s.matrix with orders := t.matrix.orders } ∧ s.ChangesOnly t [.roster, .matrix] := by
  obtain ⟨hin, -, hmem, hmat, hframe⟩ := relist_foldl allPositions s
  have hall (p : Pos) : p ∈ allPositions := List.mem_finRange p
  exact ⟨fun p => hin p (hall p), fun e => (hmem e).trans (by simp [hall]), hmat, hframe⟩

/-- An accepted CLEAR_LOCKOUT relists, writes the engine and samples MANRIDE and DIR before it leaves LOCKOUT
(R115). -/
theorem lockoutCleared_spec (s : State) : ∃ w : State,
    (∀ p, w.record p = { s.record p with closeFailed := false }) ∧
    (∀ e, e ∈ w.matrix.orders ↔
      e ∈ s.matrix.orders ∨ ∃ p, (s.record p).closeFailed = true ∧ e = plainClose p s.time) ∧
    w.matrix = { s.matrix with orders := w.matrix.orders } ∧
    w.engine = { s.engine with
      attempts := 1, cause := none, sampledManride := some s.lines.manride.level,
      sampledDir := some s.lines.dir.level } ∧
    s.ChangesOnly w [.roster, .matrix, .engine] ∧
    s.lockoutCleared =
      if s.lines.energized.level then w.enterBypassing .restart else w.changeState .dormant := by
  have hspec := relistAll_spec s
  unfold State.lockoutCleared
  generalize allPositions.foldl State.relist s = v at hspec
  obtain ⟨hrec, hmem, hmat, hframe⟩ := hspec
  have hlines : v.lines = s.lines := hframe .lines (by decide)
  have heng : v.engine = s.engine := hframe .engine (by decide)
  refine ⟨(v.setEngine { v.engine with attempts := 1, cause := none }).sampleLines, hrec, hmem, hmat, ?_,
    (hframe.more (by decide)).trans (((setEngine_frame _ _).trans (setEngine_frame _ _)).more (by decide)), ?_⟩
  · rw [← hlines, ← heng]
    rfl
  · rw [← hlines]
    rfl

/-- A change of engine state away from DORMANT, and a further write of the engine (R93). -/
theorem changeState_awake_spec (s : State) (new : EngineState) (h : s.engine.state ≠ .dormant) (e : Engine) :
    let r := (s.changeState new).setEngine e
    r.roster = s.roster ∧ r.matrix = s.matrix ∧ r.publisher = s.publisher.stopped ∧
    s.Raises r [.stateChange] ∧ s.ChangesOnly r [.engine, .publisher, .port] := by
  have hf := changeState_only s new h
  exact ⟨hf .roster (by decide), hf .matrix (by decide), changeState_publisher s new,
    (changeState_raises s new h).after rfl, hf.trans ((setEngine_frame _ _).more (by decide))⟩

/-- Settles O23: relisting, the engine's fields, then DORMANT, or BYPASSING with its exit test. -/
theorem clearLockoutRelistsAndResumes : Obligations.ClearLockoutRelistsAndResumes := by
  intro tag s hm admitted e
  refine ⟨fun hn => refuses_of hm rfl (if_pos ?_), fun ⟨hlock, hestop, hbrake⟩ => ?_⟩
  · by_contra hc
    simp only [not_or, not_not, Bool.not_eq_false] at hc
    exact hn hc
  obtain ⟨w, hrec, hmem, hmat, heng, hframe, hresume⟩ := lockoutCleared_spec s
  have hawake : w.engine.state ≠ .dormant := by
    rw [heng]
    exact fun h => by cases hlock.symm.trans h
  have hleft (new : EngineState) (x : Engine) :
      let r := (w.changeState new).setEngine x
      (∀ p, r.record p = { s.record p with closeFailed := false }) ∧
      (∀ y, y ∈ r.matrix.orders ↔ y ∈ s.matrix.orders ∨
        ∃ p, (s.record p).closeFailed = true ∧ y = plainClose p s.time) ∧
      r.matrix = { s.matrix with orders := r.matrix.orders } ∧ r.publisher = s.publisher.stopped ∧
      s.Raises r [.stateChange] ∧ s.ChangesOnly r [.roster, .matrix, .engine, .publisher, .port] := by
    intro r
    obtain ⟨rroster, rmatrix, rpublisher, rraises, rframe⟩ := changeState_awake_spec w new hawake x
    rw [rmatrix, rpublisher, hframe .publisher (by decide)]
    exact ⟨fun p => (State.record_congr rroster p).trans (hrec p), hmem, hmat, rfl,
      rraises.before (hframe .port (by decide)), (hframe.more (by decide)).trans (rframe.more (by decide))⟩
  have hperforms (u : State) (hu : s.lockoutCleared = u) (ht : u.time = s.time) :
      s.Performs (.clearLockout tag) tag .done [] u := by
    refine performs_of hm rfl ?_ ht
    unfold requestClearLockout
    rw [if_neg (by simp [hlock, State.estopN, hestop, State.brakeSet, hbrake]), hu]
    rfl
  cases hen : s.lines.energized.level with
  | true =>
    rw [hen] at hresume
    obtain ⟨h1, h2, h3, h4, h5, h6⟩ :=
      hleft .bypassing { (w.changeState .bypassing).engine with passToCome := some .restart }
    refine ⟨_, _, h1, h2, h3, h4, h5, h6, nofun, fun _ => ⟨?_, exitTest_tests _⟩, hperforms _ hresume ?_⟩
    · rw [State.setEngine_engine, changeState_engine, heng]
    · exact Eq.trans (exitTest_frame _ .time (by decide)) (h6 .time (by decide))
  | false =>
    rw [hen] at hresume
    obtain ⟨h1, h2, h3, h4, h5, h6⟩ := hleft .dormant (w.changeState .dormant).engine
    refine ⟨_, _, h1, h2, h3, h4, h5, h6, fun _ => ⟨?_, rfl⟩, nofun, hperforms _ hresume (h6 .time (by decide))⟩
    rw [State.setEngine_engine, changeState_engine, heng]

end Sys2Proof.Machine
end

section
/-! Proofs: the events of the fault intake and the switch matrix (R53, R63, R65, R70 to R72, R81 to R87), the
departure from DORMANT (R78, R95, R96) and running time (R16, R17, R112). -/

namespace Sys2Proof.Machine

/-! ## Events before their time -/

/-- An event that is not due changes nothing, in any mode (assumption 5). -/
theorem whenDue_early {s : State} {b : Bool} (hb : ¬b = true) (f : State → State) : s.whenDue b f = s := by
  by_cases hm : s.mode = .running
  · unfold State.whenDue
    rw [whileRunning_running hm, if_neg hb]
  · exact whenDue_stopped hm b f

/-- A command whose meaning is an event that is due runs it. -/
theorem exec_due {c : Instr} {s t : State} {b : Bool} {f : State → State}
    (he : exec c s = .next (s.whenDue b f)) (hm : s.mode = .running) (hb : b = true) (ht : f s = t) :
    exec c s = .next t := by
  rw [he, whenDue_due hm hb, ht]

/-- A command whose meaning is an event that is not due changes nothing. -/
theorem exec_early {c : Instr} {s : State} {b : Bool} {f : State → State}
    (he : exec c s = .next (s.whenDue b f)) (hb : ¬b = true) : exec c s = .next s := by
  rw [he, whenDue_early hb]

/-! ## Windows and groups (R63, R65) -/

/-- Settles O37: a command that arises runs its event, and one that does not changes nothing. -/
theorem windowsAndGroupsEnd : Obligations.WindowsAndGroupsEnd := by
  intro s hm
  refine ⟨fun p x hx hp hrun hfirst => ?_, fun p hturn => ?_, fun g l l' hg hl hrun => ?_⟩
  · have hdue : s.windowDue p = true := (windowDue_iff s p).mpr ⟨x, hx, hp, hrun, hfirst⟩
    refine ⟨s.windowExpiry p, exec_due rfl hm hdue rfl, rfl, rfl, fun hst => ?_, fun hst => ?_,
      fun q hq => State.record_setRecord_ne _ p q _ hq, ?_⟩
    · exact (State.record_setRecord_same _ p _).trans (if_pos hst)
    · exact (State.record_setRecord_same _ p _).trans (if_neg hst)
    · exact (((setIntake_frame s _).more (by decide)).trans ((setOrders_frame _ _).more (by decide))).trans
        ((setRecord_frame _ p _).more (by decide))
  · refine exec_early rfl fun hdue => ?_
    obtain ⟨x, hx, hp, hrun, hfirst⟩ := (windowDue_iff s p).mp hdue
    obtain ⟨y, hy, hcode, hyrun, hbefore⟩ := hturn x hx hp hrun
    rw [hfirst y hy hcode hyrun] at hbefore
    cases hbefore
  · exact exec_due rfl hm ((groupDue_iff s g.code).mpr ⟨g, l, l', hg, rfl, hl, hrun⟩) rfl

/-! ## The contact scan (R70 to R72) -/

/-- Settles O39: three reads, each by `readContact_reads`, and none leads back to CONFIG. -/
theorem settledChangesConfirmOrSurprise : Obligations.SettledChangesConfirmOrSurprise := by
  intro a b c since s hm hdwell hrun hconfig rank
  have h1 : (s.setSense { a := a, b := b, c := c }).engine.state ≠ .config := hconfig
  have h2 := readContact_left _ (posAt 0 rank) a h1
  have h3 := readContact_left _ (posAt 1 rank) b h2
  exact ⟨_, _, _, _, readContact_reads _ (posAt 0 rank) a h1, readContact_reads _ (posAt 1 rank) b h2,
    readContact_reads _ (posAt 2 rank) c h3, rfl, exec_due rfl hm ((dwellDue_iff s).mpr ⟨since, hdwell, hrun⟩) rfl⟩

/-- A record after a settled change in CONFIG: its contact, and its state as it follows (R18, R72). -/
def Record.followed (r : Record) (closed : Bool) (qLim : Nat) : Record :=
  { r with
    contact := if closed then .closed else .opened
    state :=
      if r.state = .inService ∧ closed = true then (if qLim ≤ r.tally then .quarantined else .bypassed)
      else if r.state = .bypassed ∧ closed = false then .inService
      else r.state }

theorem followed_eq (r : Record) (closed : Bool) (qLim : Nat) :
    Record.follow { r with contact := contactOf closed } closed qLim = r.followed closed qLim := by
  obtain ⟨st⟩ := r
  cases closed <;> cases st <;> rfl

/-- A settled change in CONFIG with the unit IDLE is the follow (R18). -/
theorem settledChange_config {s : State} (hc : s.engine.state = .config) (hu : s.matrix.unit = .idle) (p : Pos)
    (closed : Bool) :
    ∃ r, s.settledChange p closed = (s.setRecord p r).setRecord p ((s.record p).followed closed s.params.qLim) := by
  refine ⟨{ s.record p with contact := contactOf closed }, ?_⟩
  have hconfirm : (s.setRecord p { s.record p with contact := contactOf closed }).confirm p closed =
      s.setRecord p { s.record p with contact := contactOf closed } := by
    unfold State.confirm
    rw [State.setRecord_matrix, hu]
  unfold State.settledChange
  dsimp only
  rw [hconfirm, State.setRecord_engine, if_pos hc, State.record_setRecord_same, followed_eq]
  rfl

/-- From s to t one read of a position that settles nothing, or is followed in CONFIG: the debounce state takes it,
and but for the follow no record changes (R18, R71). -/
structure State.QuietRead (s t : State) (p : Pos) (closed : Bool) : Prop where
  matrix : t.matrix = { s.matrix with
    debounce := s.matrix.debounce.set p (s.matrix.debounce[p].afterRead closed) }
  unsettled : ¬s.Settles p closed → t.record p = s.record p
  settled : s.Settles p closed → t.record p = (s.record p).followed closed s.params.qLim
  others : s.OtherRecords t p
  frame : s.ChangesOnly t [.matrix, .roster]

theorem readContact_quiet {s : State} {p : Pos} {closed : Bool}
    (h : (s.engine.state = .config ∧ s.matrix.unit = .idle) ∨ ¬s.Settles p closed) :
    s.QuietRead (s.readContact p closed) p closed := by
  obtain ⟨hset, hunset⟩ := readContact_eq s p closed
  dsimp only at hset hunset
  have hf (m : Matrix) : s.ChangesOnly (s.setMatrix m) [.matrix, .roster] := (setMatrix_frame s m).more (by decide)
  by_cases hs : s.Settles p closed
  · obtain ⟨hc, hu⟩ := h.resolve_right (not_not.mpr hs)
    rw [hset hs]
    generalize hm : { s.matrix with
      debounce := s.matrix.debounce.set p (s.matrix.debounce[p].afterRead closed) } = m
    obtain ⟨r, hr⟩ := settledChange_config (s := s.setMatrix m) hc (by rw [State.setMatrix_matrix, ← hm]; exact hu)
      p closed
    rw [hr]
    exact
      { matrix := hm.symm
        unsettled := fun hn => absurd hs hn
        settled := fun _ => State.record_setRecord_same _ p _
        others := fun q hq =>
          (State.record_setRecord_ne _ p q _ hq).trans (State.record_setRecord_ne _ p q _ hq)
        frame := (hf m).trans (((setRecord_frame _ p _).trans (setRecord_frame _ p _)).more (by decide)) }
  · rw [hunset hs]
    exact
      { matrix := rfl
        unsettled := fun _ => rfl
        settled := fun a => absurd a hs
        others := fun _ _ => rfl
        frame := hf _ }

/-- After a quiet read of another position a position reads as before. -/
theorem State.QuietRead.debounce_ne {s t : State} {p q : Pos} {closed : Bool} (h : s.QuietRead t p closed)
    (hq : q ≠ p) : t.matrix.debounce[q] = s.matrix.debounce[q] := by
  rw [h.matrix]
  exact Vector.getElem_set_ne p.isLt q.isLt fun e => hq (Fin.ext e.symm)

theorem State.QuietRead.debounce_same {s t : State} {p : Pos} {closed : Bool} (h : s.QuietRead t p closed) :
    t.matrix.debounce[p] = s.matrix.debounce[p].afterRead closed := by
  rw [h.matrix]
  exact Vector.getElem_set_self _

theorem State.QuietRead.settles_ne {s t : State} {p q : Pos} {closed level : Bool} (h : s.QuietRead t p closed)
    (hq : q ≠ p) : t.Settles q level ↔ s.Settles q level := by
  unfold State.Settles
  rw [h.debounce_ne hq, h.others q hq]

/-- The three positions of a rank differ (00_scope 4). -/
theorem posAt_ne {q q' : Fin 3} (h : q ≠ q') (r : Fin 10) : posAt q r ≠ posAt q' r := by
  intro e
  have hv : q.val * 10 + r.val = q'.val * 10 + r.val := congrArg Fin.val e
  exact h (Fin.ext (by omega))

/-- Three quiet reads of one rank in position order, each by the state the one before left: the sum of what each does
(R70). -/
theorem quietReads_rank {s s1 s2 s3 : State} {r : Fin 10} {level : Fin 3 → Bool}
    (h0 : s.QuietRead s1 (posAt 0 r) (level 0)) (h1 : s1.QuietRead s2 (posAt 1 r) (level 1))
    (h2 : s2.QuietRead s3 (posAt 2 r) (level 2)) :
    s3.matrix = { s.matrix with debounce := s3.matrix.debounce } ∧
    (∀ q, s3.matrix.debounce[posAt q r] = s.matrix.debounce[posAt q r].afterRead (level q)) ∧
    (∀ p, (∀ q, p ≠ posAt q r) → s3.matrix.debounce[p] = s.matrix.debounce[p] ∧ s3.record p = s.record p) ∧
    (∀ q, ¬s.Settles (posAt q r) (level q) → s3.record (posAt q r) = s.record (posAt q r)) ∧
    (∀ q, s.Settles (posAt q r) (level q) →
      s3.record (posAt q r) = (s.record (posAt q r)).followed (level q) s.params.qLim) ∧
    s.ChangesOnly s3 [.matrix, .roster] := by
  have h01 : posAt 0 r ≠ posAt 1 r := posAt_ne (by decide) r
  have h02 : posAt 0 r ≠ posAt 2 r := posAt_ne (by decide) r
  have h12 : posAt 1 r ≠ posAt 2 r := posAt_ne (by decide) r
  have hp1 : s1.params = s.params := h0.frame .params (by decide)
  have hp2 : s2.params = s.params := Eq.trans (h1.frame .params (by decide)) hp1
  refine ⟨by rw [h2.matrix, h1.matrix, h0.matrix], fun q => ?_, fun p hp => ⟨?_, ?_⟩, fun q hq => ?_, fun q hq => ?_,
    (h0.frame.trans h1.frame).trans h2.frame⟩
  · match q with
    | 0 => rw [h2.debounce_ne h02, h1.debounce_ne h01, h0.debounce_same]
    | 1 => rw [h2.debounce_ne h12, h1.debounce_same, h0.debounce_ne h01.symm]
    | 2 => rw [h2.debounce_same, h1.debounce_ne h12.symm, h0.debounce_ne h02.symm]
  · rw [h2.debounce_ne (hp 2), h1.debounce_ne (hp 1), h0.debounce_ne (hp 0)]
  · rw [h2.others p (hp 2), h1.others p (hp 1), h0.others p (hp 0)]
  · match q with
    | 0 => rw [h2.others _ h02, h1.others _ h01, h0.unsettled hq]
    | 1 => rw [h2.others _ h12, h1.unsettled (mt (h0.settles_ne h01.symm).mp hq), h0.others _ h01.symm]
    | 2 =>
      have hq1 := mt (h0.settles_ne h02.symm).mp hq
      rw [h2.unsettled (mt (h1.settles_ne h12.symm).mp hq1), h1.others _ h12.symm, h0.others _ h02.symm]
  · match q with
    | 0 => rw [h2.others _ h02, h1.others _ h01, h0.settled hq]
    | 1 => rw [h2.others _ h12, h1.settled ((h0.settles_ne h01.symm).mpr hq), h0.others _ h01.symm, hp1]
    | 2 =>
      have hq1 := (h0.settles_ne h02.symm).mpr hq
      rw [h2.settled ((h1.settles_ne h12.symm).mpr hq1), h1.others _ h12.symm, h0.others _ h02.symm, hp2]

/-- What makes a read quiet stands over a quiet read of another position. -/
theorem State.QuietRead.stays_quiet {s t : State} {p q : Pos} {closed level : Bool} (h : s.QuietRead t p closed)
    (hq : q ≠ p) (hs : (s.engine.state = .config ∧ s.matrix.unit = .idle) ∨ ¬s.Settles q level) :
    (t.engine.state = .config ∧ t.matrix.unit = .idle) ∨ ¬t.Settles q level := by
  refine hs.imp (fun ⟨hc, hu⟩ => ⟨?_, ?_⟩) (mt (h.settles_ne hq).mp)
  · rw [h.frame .engine (by decide)]
    exact hc
  · rw [h.matrix]
    exact hu

/-- Settles O38: the three reads are quiet, in CONFIG because the unit is IDLE, elsewhere because none settles. -/
theorem scanReadsOneRankAndConfigFollows : Obligations.ScanReadsOneRankAndConfigFollows := by
  intro a b c since s hm hdwell hrun rank sense hquiet
  have hq (q : Fin 3) : (s.engine.state = .config ∧ s.matrix.unit = .idle) ∨ ¬s.Settles (posAt q rank) (sense q) :=
    hquiet.imp_right fun h => h q
  have h01 : posAt 1 rank ≠ posAt 0 rank := posAt_ne (by decide) rank
  have h02 : posAt 2 rank ≠ posAt 0 rank := posAt_ne (by decide) rank
  have h12 : posAt 2 rank ≠ posAt 1 rank := posAt_ne (by decide) rank
  obtain ⟨v, hv⟩ : ∃ v, v = s.setSense { a := a, b := b, c := c } := ⟨_, rfl⟩
  have hvf : s.ChangesOnly v [.sense] := hv ▸ setSense_frame s _
  have hvq (q : Fin 3) :
      (v.engine.state = .config ∧ v.matrix.unit = .idle) ∨ ¬v.Settles (posAt q rank) (sense q) := by
    rw [hv]
    exact hq q
  have r0 := readContact_quiet (hvq 0)
  have q1 := r0.stays_quiet h01 (hvq 1)
  have r1 := readContact_quiet q1
  have q2 := r1.stays_quiet h12 (r0.stays_quiet h02 (hvq 2))
  have r2 := readContact_quiet q2
  obtain ⟨hmat, hdeb, hrest, hunset, hset, hframe⟩ := quietReads_rank r0 r1 r2
  generalize hw : ((v.readContact (posAt 0 rank) (sense 0)).readContact (posAt 1 rank) (sense 1)).readContact
    (posAt 2 rank) (sense 2) = w at hmat hdeb hrest hunset hset hframe
  have hsettles (p : Pos) (level : Bool) : v.Settles p level ↔ s.Settles p level := by
    rw [hv]
    rfl
  have hvrec (p : Pos) : v.record p = s.record p := State.record_congr (hvf .roster (by decide)) p
  have hvmat : v.matrix = s.matrix := hvf .matrix (by decide)
  refine ⟨w.setMatrix { w.matrix with pointer := rank + 1, dwell := some s.time },
    exec_due rfl hm ((dwellDue_iff s).mpr ⟨since, hdwell, hrun⟩) ?_, ?_, ?_, fun q => ?_, fun p hp => ?_,
    fun q h => ?_, fun q h r hr => ?_, ?_⟩
  · rw [← hw, hv]
    rfl
  · exact Eq.trans (hframe .sense (by decide)) (hv ▸ rfl)
  · rw [State.setMatrix_matrix, hmat, hvmat]
  · exact (hdeb q).trans (by rw [hvmat])
  · have hother (q : Fin 3) : p ≠ posAt q rank := fun e => hp (by
      rw [e]
      show (q.val * 10 + rank.val) % 10 = rank.val
      omega)
    obtain ⟨hd, hr⟩ := hrest p hother
    exact ⟨hd.trans (by rw [hvmat]), hr.trans (hvrec p)⟩
  · exact (hunset q (mt (hsettles _ _).mp h)).trans (hvrec _)
  · refine (hset q ((hsettles _ _).mpr h)).trans ?_
    rw [hvrec, hr, hvf .params (by decide)]
    rfl
  · exact ((hvf.more (by decide)).trans (hframe.more (by decide))).trans ((setMatrix_frame _ _).more (by decide))

/-! ## Grants (R81 to R83) -/

theorem Entry.eligible_iff (e : Entry) (st : EngineState) : e.eligible st = true ↔
    (e.kind = .toClose ∧ e.hold = false ∧ (e.holdOff = false ∨ e.holdOffRun = true)) ∨
      (e.kind = .toOpen ∧ st = .dormant) := by
  unfold Entry.eligible
  cases e.kind <;> simp

/-- The entry granted is the first eligible one in list order (R81). -/
theorem nextEligible_eq {s : State} {older younger : List Entry} {e : Entry}
    (ho : s.matrix.orders = older ++ e :: younger) (he : e.eligible s.engine.state = true)
    (hn : ∀ x ∈ older, ¬x.eligible s.engine.state = true) : s.nextEligible = some e :=
  List.find?_eq_some_iff_append.mpr ⟨he, older, younger, ho, fun x hx => by simpa using hn x hx⟩

theorem entryGrant_eq {s : State} {e : Entry} (h : s.nextEligible = some e) : s.entryGrant = s.grant e := by
  unfold State.entryGrant
  rw [h]

/-- The close of a FAULTED record granted without a pulse (R10, R82). -/
theorem closeConfirmed_faulted (s : State) (p : Pos) (h : (s.record p).state = .faulted) :
    (s.closeConfirmed p).record p = { s.record p with
      state := if s.params.qLim ≤ min 15 ((s.record p).tally + 1) ∨ (s.record p).probation ≠ none
        then .quarantined else .bypassed
      tally := min 15 ((s.record p).tally + 1), probation := none, prior := none } ∧
    s.OtherRecords (s.closeConfirmed p) p ∧ s.Raises (s.closeConfirmed p) [.switchDone] ∧
    s.ChangesOnly (s.closeConfirmed p) [.roster, .port] := by
  refine ⟨?_, fun q hq => State.record_setRecord_ne s p q _ hq, State.Raises.before rfl (setFlag_raises _ _),
    ((closeCompletion_frame s p).more (by decide)).trans ((setFlag_frame _ _).more (by decide))⟩
  refine (State.record_setRecord_same s p _).trans ?_
  unfold Record.closeCompleted
  rw [if_pos (.inl h)]
  congr 1
  simp [Option.isSome_iff_ne_none]

/-- The state as a grant leaves the list: the entry granted is gone (R81). -/
def State.taken (s : State) (e : Entry) : State := s.setOrders (withoutEntry e.pos e.kind s.matrix.orders)

/-- A CLOSE entry with its contact at the target completes; else its pulse starts (R82, R83). -/
theorem grant_close {s : State} {e : Entry} (hk : e.kind = .toClose) : s.grant e =
    if (s.record e.pos).contact = .closed then ((s.taken e).closeConfirmed e.pos).exitTest
    else (s.taken e).pulseStart e.pos .toClose := by
  unfold State.grant State.taken
  dsimp only
  rw [State.setOrders_record, hk]
  cases (s.record e.pos).contact <;> rfl

/-- An OPEN entry with its contact at the target completes; else its pulse starts (R82, R83). -/
theorem grant_open {s : State} {e : Entry} (hk : e.kind = .toOpen) : s.grant e =
    if (s.record e.pos).contact = .opened then (s.taken e).openConfirmed e.pos
    else (s.taken e).pulseStart e.pos .toOpen := by
  unfold State.grant State.taken
  dsimp only
  rw [State.setOrders_record, hk]
  cases (s.record e.pos).contact <;> rfl

/-- Settles O42: the grant of the first eligible entry, by its kind and its contact. -/
theorem grantTakesTheOldestEligibleEntry : Obligations.GrantTakesTheOldestEligibleEntry := by
  intro s older younger e hm hu ho eligible he hn r rest
  have helig := (Entry.eligible_iff e s.engine.state).mpr he
  have hnext := nextEligible_eq ho helig fun x hx => mt (Entry.eligible_iff x s.engine.state).mp (hn x hx)
  have hdue : s.grantDue = true := by
    unfold State.grantDue
    rw [hu, hnext]
    rfl
  have hf : s.ChangesOnly (s.taken e) [.matrix] := setOrders_frame s _
  have hrec : (s.taken e).record e.pos = r := State.setOrders_record s _ e.pos
  refine ⟨s.grant e, exec_due rfl hm hdue (entryGrant_eq hnext), fun hk hst hcon => ?_, fun hk hcon => ?_,
    fun hk hst hcon => ?_, fun hk hst hcon => ?_⟩
  · rw [grant_close hk, if_neg hcon]
    refine ⟨(State.record_setRecord_same _ _ _).trans ?_, fun q hq => State.record_setRecord_ne _ _ q _ hq, rfl,
      ((hf.trans (setMatrix_frame _ _)).more (by decide)).trans ((setRecord_frame _ _ _).more (by decide))⟩
    exact if_pos hst
  · rw [grant_open hk, if_neg hcon]
    rfl
  · rw [grant_close hk, if_pos hcon]
    obtain ⟨h1, h2, h3, h4⟩ := closeConfirmed_faulted (s.taken e) e.pos (hrec ▸ hst)
    exact ⟨_, hrec ▸ h1, h2, h4 .matrix (by decide), h3.before rfl,
      (hf.more (by decide)).trans (h4.more (by decide)), exitTest_tests _⟩
  · rw [grant_open hk, if_pos hcon]
    obtain ⟨h1, h2, h3, h4, h5, h6⟩ := openConfirmed_spec (s.taken e) e.pos (hrec ▸ hst)
    exact ⟨hrec ▸ h1, h2, h6 .matrix (by decide), hrec ▸ h4, hrec ▸ h5, h3.before rfl,
      (hf.more (by decide)).trans (h6.more (by decide))⟩

/-! ## Pulses without a confirmation (R85, R87) -/

/-- Settles O43: the record, SWITCH_FAIL and the unit, then for CLOSE the lockout by the engine's state. -/
theorem unconfirmedPulsesTimeOut : Obligations.UnconfirmedPulsesTimeOut := by
  intro s p ended recovered hm hrun freed
  have hmade (r : Record) :
      let u := ((s.setRecord p r).setFlag .switchFail).setUnit (concluded ended recovered)
      u.record p = r ∧ s.OtherRecords u p ∧ u.matrix = { s.matrix with unit := freed } ∧
      s.Raises u [.switchFail] ∧ s.ChangesOnly u [.roster, .matrix, .port] :=
    ⟨State.record_setRecord_same s p r, fun q hq => State.record_setRecord_ne s p q r hq, rfl,
      State.Raises.before rfl (setFlag_raises (s.setRecord p r) _),
      (((setRecord_frame s p r).more (by decide)).trans ((setFlag_frame _ _).more (by decide))).trans
        ((setUnit_frame _ _).more (by decide))⟩
  refine ⟨fun hu hst => ?_, fun hu hst => ?_⟩
  · have hdue := (closeTimeoutDue_iff s).mpr ⟨p, ended, recovered, hu, hrun⟩
    obtain ⟨h1, h2, h3, h4, h5⟩ := hmade (s.record p).closeTimedOut
    refine ⟨_, _, exec_due rfl hm hdue ?_, h1.trans (if_pos hst), h2, h3, h4, h5,
      fun h => lockout_locked _ _ h, fun h h' => lockout_locksOut _ _ h h', fun h => lockout_dormant _ _ h⟩
    unfold State.closeTimeout
    rw [hu]
  · have hdue := (openTimeoutDue_iff s).mpr ⟨p, ended, recovered, hu, hrun⟩
    obtain ⟨h1, h2, h3, h4, h5⟩ := hmade (s.record p).openEnded
    refine ⟨_, exec_due rfl hm hdue ?_, h1.trans (if_pos hst), h2, h3, h4, h5⟩
    unfold State.openTimeout
    rw [hu]

/-! ## The departure from DORMANT (R78, R95, R96) -/

/-- Settles O45: ENERGIZED rising by the change of state, ESTOP_N falling by the lockout. -/
theorem leavingDormantWithdrawsOpens : Obligations.LeavingDormantWithdrawsOpens := by
  intro s hm hd settled
  refine ⟨?_, ?_⟩
  · obtain ⟨v, hv⟩ : ∃ v, v = s.setEnergized (settled true) := ⟨_, rfl⟩
    have hvd : v.engine.state = .dormant := hv ▸ hd
    have hvf : s.ChangesOnly v [.lines] := hv ▸ setLines_frame s _
    obtain ⟨u, hraise, huf, hwith, hwf⟩ := changeState_withdraws v .charging hvd
    obtain ⟨t, ht⟩ : ∃ t, t = (v.changeState .charging).setEngine
      { (v.changeState .charging).engine with grace := some (v.changeState .charging).time } := ⟨_, rfl⟩
    have htf : (v.changeState .charging).ChangesOnly t [.engine, .publisher, .port] := by
      rw [ht]
      exact (setEngine_frame _ _).more (by decide)
    have hcf : v.ChangesOnly (v.changeState .charging) [.roster, .matrix, .port, .engine, .publisher] :=
      (huf.more (by decide)).trans (hwf.more (by decide))
    have hall : s.ChangesOnly t [.lines, .engine, .publisher, .port, .roster, .matrix] :=
      ((hvf.more (by decide)).trans (hcf.more (by decide))).trans (htf.more (by decide))
    refine ⟨t, ?_, ?_, ?_, ?_, ?_, hall⟩
    · show Host.Outcome.next _ = _
      rw [edge_running hm]
      show Host.Outcome.next (State.energizedRise (s.setEnergized (settled true))) = _
      unfold State.energizedRise
      rw [← hv, if_pos hvd, ht]
      rfl
    · rw [ht, State.setEngine_engine, changeState_engine, hcf .time (by decide), hv]
      rfl
    · rw [ht, State.setEngine_lines, hcf .lines (by decide), hv]
      rfl
    · rw [ht, State.setEngine_publisher, changeState_publisher, hv]
      rfl
    · refine hwith.within (l1 := [.stateChange]) (l2 := []) (hraise.before (hvf .port (by decide)))
        ((hvf.more (by decide)).trans (huf.more (by decide))) (State.Raises.none ?_) htf
        fun f => by rw [List.append_nil]
      rw [ht]
      rfl
  · refine ⟨_, s.setLines { s.lines with estopN := settled false }, ?_, rfl, lockout_dormant _ _ hd⟩
    show Host.Outcome.next _ = _
    rw [edge_running hm]
    show Host.Outcome.next (State.estopFall (s.setEstopN (settled false))) = _
    unfold State.estopFall
    have hd' : (s.setEstopN (settled false)).engine.state = .dormant := hd
    rw [hd']
    rfl

/-! ## Running time (R16, R17, R112) -/

theorem setAccrual_frame (s : State) (n : Nat) : s.ChangesOnly (s.setAccrual n) [.accrual] := by
  intro x hx
  cases x with
  | accrual => exact absurd List.mem_cons_self hx
  | _ => rfl

/-- Settles O47: each of the four events when it arises. -/
theorem runningTimeCounts : Obligations.RunningTimeCounts := by
  intro s hm
  refine ⟨fun n k hc hk => exec_due rfl hm ((cleanSecondDue_iff s).mpr ⟨_, hc, hk⟩) ?_,
    fun k hc => exec_due rfl hm ((cleanEndDue_iff s).mpr ⟨_, hc, rfl⟩) rfl,
    fun hk => ⟨s.runningSecond, exec_due rfl hm ((secondDue_iff s).mpr hk) rfl, ?_, fun p n hst hp => ?_,
      fun p hst => ?_, ?_⟩,
    fun p hst hp => exec_due rfl hm ((probationDue_iff s p).mpr ⟨hst, hp⟩) rfl⟩
  · unfold State.cleanSecond
    rw [hc]
    rfl
  · unfold State.runningSecond
    rw [State.mapRecords_accrual]
    rfl
  · unfold State.runningSecond Record.secondPassed
    rw [State.record_mapRecords, State.setAccrual_record, if_pos hst, hp]
    rfl
  · unfold State.runningSecond Record.secondPassed
    rw [State.record_mapRecords, State.setAccrual_record, if_neg hst]
  · exact ((setAccrual_frame s _).more (by decide)).trans ((mapRecords_frame _ _).more (by decide))

end Sys2Proof.Machine
end

section
/-! Proofs: the idle part (R16, R52, R90, R112, R181, R204). -/

namespace Sys2Proof.Machine

/-! ## What is due is what arises -/

/-- The events of one kind that are due among all its operands. -/
theorem mem_due_each {α : Type} {l : List α} (hl : ∀ a, a ∈ l) {f : α → Bool} {g : α → Instr} {c : Instr} :
    c ∈ (l.filter f).map g ↔ ∃ a, f a = true ∧ c = g a := by
  rw [List.mem_map]
  refine exists_congr fun a => ?_
  rw [List.mem_filter, and_iff_right (hl a), eq_comm (a := g a)]

/-- The events due, family by family of `State.due`. -/
theorem mem_due (s : State) (c : Instr) : c ∈ s.due ↔
    (s.answerDue = true ∧ c = .answerReady) ∨ (∃ ch, s.silenceDue ch = true ∧ c = .silenceDetected ch) ∨
    (s.boundaryDue = true ∧ c = .downlinkBoundary) ∨ (∃ p, s.windowDue p = true ∧ c = .windowExpiry p) ∨
    (∃ e, s.groupDue e = true ∧ c = .groupClose e) ∨
    (s.dwellDue = true ∧ c = .scanDwellEnd s.sense.a s.sense.b s.sense.c) ∨
    (∃ p, s.holdOffDue p = true ∧ c = .holdOffExpiry p) ∨ (s.grantDue = true ∧ c = .entryGrant) ∨
    (s.pulseDue = true ∧ c = .pulseEnd) ∨ (s.timeoutDue .toClose = true ∧ c = .closeTimeout) ∨
    (s.timeoutDue .toOpen = true ∧ c = .openTimeout) ∨ (s.recoveryDue = true ∧ c = .recoveryEnd) ∨
    (s.brakeWaitDue = true ∧ c = .brakeWaitExpiry) ∨ (s.graceDue = true ∧ c = .graceExpiry) ∨
    (s.frameDue = true ∧ c = .setFrameSent) ∨ (s.adoptDue = true ∧ c = .adoptionDeadlineExpiry) ∨
    (s.minDue = true ∧ c = .minimumTimerExpiry) ∨ (s.verDue = true ∧ c = .verificationDeadlineExpiry) ∨
    (s.provingDue = true ∧ c = .provingDeadlineExpiry) ∨ (s.cleanSecondDue = true ∧ c = .cleanRunSecond) ∨
    (s.cleanEndDue = true ∧ c = .cleanRunEnd) ∨ (s.secondDue = true ∧ c = .runningTimeSecond) ∨
    (∃ p, s.probationDue p = true ∧ c = .probationComplete p) ∨ c ∈ s.edgesDue := by
  have hcode (e : Eligible) : e ∈ [Eligible.dcOver, .dcUnder, .overtemp] := by cases e <;> decide
  unfold State.due
  simp only [List.mem_append, mem_whenHolds, mem_due_each List.mem_finRange,
    mem_due_each (l := allPositions) List.mem_finRange, mem_due_each hcode, or_assoc]

theorem mem_edgesDue (s : State) (c : Instr) : c ∈ s.edgesDue ↔
    (s.lines.energized.Edges true ∧ c = .energizedRising) ∨
    (s.lines.energized.Edges false ∧ c = .energizedFalling) ∨
    (s.lines.estopN.Edges false ∧ c = .estopNFalling) ∨ (s.lines.brakeSet.Edges true ∧ c = .brakeSetRising) ∨
    (s.lines.brakeSet.Edges false ∧ c = .brakeSetFalling) ∨ (s.lines.proven.Edges true ∧ c = .provenRising) := by
  simp only [State.edgesDue, List.mem_append, mem_whenHolds, edgeDue_iff, or_assoc]

/-- The dwell's end that is due carries the levels of the sense lines. -/
theorem dwellArises_iff (s : State) (a b c : Bool) : s.Arises (.scanDwellEnd a b c) ↔
    s.dwellDue = true ∧ (Instr.scanDwellEnd a b c) = .scanDwellEnd s.sense.a s.sense.b s.sense.c := by
  rw [dwellDue_iff, Instr.scanDwellEnd.injEq, and_comm]
  show _ = _ ∧ _ ↔ _
  rw [Sense.mk.injEq]
  simp only [eq_comm]

/-- Due is exactly what arises, for every command. -/
theorem mem_due_iff_arises (s : State) (c : Instr) : c ∈ s.due ↔ s.Arises c := by
  rw [mem_due, mem_edgesDue]
  cases c with
  | scanDwellEnd a b c => rw [dwellArises_iff]; simp only [reduceCtorEq, and_false, exists_false, false_or, or_false]
  | answerReady => simp [answerDue_iff]
  | silenceDetected ch => simp [silenceDue_iff]
  | downlinkBoundary => simp [boundaryDue_iff]
  | windowExpiry p => simp [windowDue_iff]
  | groupClose e => simp [groupDue_iff]
  | holdOffExpiry p => simp [holdOffDue_iff]
  | entryGrant => simp [grantDue_iff]
  | pulseEnd => simp [pulseDue_iff]
  | closeTimeout => simp [closeTimeoutDue_iff]
  | openTimeout => simp [openTimeoutDue_iff]
  | recoveryEnd => simp [recoveryDue_iff]
  | brakeWaitExpiry => simp [brakeWaitDue_iff]
  | graceExpiry => simp [graceDue_iff]
  | setFrameSent => simp [frameDue_iff]
  | adoptionDeadlineExpiry => simp [adoptDue_iff]
  | minimumTimerExpiry => simp [minDue_iff]
  | verificationDeadlineExpiry => simp [verDue_iff]
  | provingDeadlineExpiry => simp [provingDue_iff]
  | cleanRunSecond => simp [cleanSecondDue_iff]
  | cleanRunEnd => simp [cleanEndDue_iff]
  | runningTimeSecond => simp [secondDue_iff]
  | probationComplete p => simp [probationDue_iff]
  | _ => simp [State.Arises]

/-- The test behind each command that needs to arise fails where it does not arise (assumption 5). -/
theorem exec_of_not_arises {c : Instr} {s : State} (hn : Instr.needsToArise c = true) (h : ¬s.Arises c) :
    exec c s = .next s := by
  cases c with
  | silenceDetected ch => exact exec_early rfl (mt (silenceDue_iff s ch).mp h)
  | downlinkBoundary => exact exec_early rfl (mt (boundaryDue_iff s).mp h)
  | windowExpiry p => exact exec_early rfl (mt (windowDue_iff s p).mp h)
  | groupClose e => exact exec_early rfl (mt (groupDue_iff s e).mp h)
  | holdOffExpiry p => exact exec_early rfl (mt (holdOffDue_iff s p).mp h)
  | entryGrant => exact exec_early rfl (mt (grantDue_iff s).mp h)
  | pulseEnd => exact exec_early rfl (mt (pulseDue_iff s).mp h)
  | closeTimeout => exact exec_early rfl (mt (closeTimeoutDue_iff s).mp h)
  | openTimeout => exact exec_early rfl (mt (openTimeoutDue_iff s).mp h)
  | recoveryEnd => exact exec_early rfl (mt (recoveryDue_iff s).mp h)
  | brakeWaitExpiry => exact exec_early rfl (mt (brakeWaitDue_iff s).mp h)
  | graceExpiry => exact exec_early rfl (mt (graceDue_iff s).mp h)
  | setFrameSent => exact exec_early rfl (mt (frameDue_iff s).mp h)
  | adoptionDeadlineExpiry => exact exec_early rfl (mt (adoptDue_iff s).mp h)
  | minimumTimerExpiry => exact exec_early rfl (mt (minDue_iff s).mp h)
  | verificationDeadlineExpiry => exact exec_early rfl (mt (verDue_iff s).mp h)
  | provingDeadlineExpiry => exact exec_early rfl (mt (provingDue_iff s).mp h)
  | cleanRunSecond => exact exec_early rfl (mt (cleanSecondDue_iff s).mp h)
  | cleanRunEnd => exact exec_early rfl (mt (cleanEndDue_iff s).mp h)
  | runningTimeSecond => exact exec_early rfl (mt (secondDue_iff s).mp h)
  | probationComplete p => exact exec_early rfl (mt (probationDue_iff s p).mp h)
  | _ => cases hn

/-! ## The choice among the events due -/

/-- One of the events due is queued, and nothing else changes but the counter of choices (assumption 3). -/
theorem queueOne_spec (s : State) (first : Instr) (others : List Instr) :
    (∃ c ∈ first :: others, (s.queueOne first others).pending = [c]) ∧
    s.ChangesOnly (s.queueOne first others) [.pending, .choices] := by
  have hf (q : List Instr) : s.ChangesOnly (s.setPending q) [.pending, .choices] := by
    intro x hx
    cases x with
    | pending => exact absurd (by decide) hx
    | _ => rfl
  cases others with
  | nil => exact ⟨⟨first, List.mem_cons_self, rfl⟩, hf _⟩
  | cons second rest =>
    have hlt : Config.eventChoice s.choices % ((second :: rest).length + 1) < (first :: second :: rest).length :=
      Nat.mod_lt _ (Nat.succ_pos _)
    refine ⟨⟨_, List.getElem_mem hlt, ?_⟩, fun x hx => ?_⟩
    · rw [← List.getD_eq_getElem _ first hlt]
      rfl
    · cases x with
      | pending | choices => exact absurd (by decide) hx
      | _ => rfl

/-! ## One microsecond -/

/-- The level a line's qualification takes at a sample (R204). -/
theorem sampled_passed (l : Line) (quiet : Bool → Bool) :
    let new := l.sampled.passed quiet
    new.pin = l.pin ∧ new.sample = l.pin ∧
    new.count = (if 0 < l.count ∧ l.sample = l.pin then min 5 (l.count + 1) else 1) ∧
    new.qualified =
      (if new.count = 5 ∧ (quiet l.pin = true ∨ l.qualified = none) then some l.pin else l.qualified) := by
  have hsampled : l.sampled.pin = l.pin ∧ l.sampled.sample = l.pin ∧ l.sampled.qualified = l.qualified ∧
      l.sampled.count = (if 0 < l.count ∧ l.sample = l.pin then min 5 (l.count + 1) else 1) := by
    unfold Line.sampled
    split
    · next h => exact ⟨rfl, h.2, rfl, rfl⟩
    · exact ⟨rfl, rfl, rfl, rfl⟩
  obtain ⟨hpin, hsample, hqual, hcount⟩ := hsampled
  have hle : l.sampled.count ≤ 5 := by
    rw [hcount]
    split <;> omega
  have hfive : (Config.qualifySamples ≤ l.sampled.count ∧
      (l.sampled.qualified.isNone ∨ quiet l.sampled.sample)) ↔
      (l.sampled.count = 5 ∧ (quiet l.pin = true ∨ l.qualified = none)) := by
    rw [hsample, hqual, Option.isNone_iff_eq_none, or_comm]
    exact and_congr_left' ⟨fun h => Nat.le_antisymm hle h, fun h => h.ge⟩
  unfold Line.passed
  by_cases h : l.sampled.count = 5 ∧ (quiet l.pin = true ∨ l.qualified = none)
  · rw [if_pos (hfive.mpr h)]
    exact ⟨hpin, hsample, hcount, (congrArg some hsample).trans (if_pos h).symm⟩
  · rw [if_neg (mt hfive.mp h)]
    exact ⟨hpin, hsample, hcount, hqual.trans (if_neg h).symm⟩

/-- The time base is at an odd value exactly with its lowest bit set. -/
theorem odd_iff (t : Stamp) : t.getLsbD 0 = true ↔ t.toNat % 2 = 1 := by
  rw [BitVec.getLsbD, Nat.testBit_zero, decide_eq_true_iff]

theorem accrue_eq (s : State) (n : Nat) : accrue s.runningTime n =
    n + if s.engine.state = .running ∧ s.lines.brakeSet.level = false then 1 else 0 := by
  unfold accrue State.runningTime State.brakeSet
  by_cases hr : s.engine.state = .running <;> cases s.lines.brakeSet.level <;> simp [hr]

/-- What one microsecond changes (R16, R52, R112, R181, R204). -/
theorem tick_frame (s : State) : s.ChangesOnly s.tick [.time, .lines, .accrual, .engine, .port] := by
  intro x hx
  cases x with
  | time | lines | accrual | engine | port => exact absurd (by decide) hx
  | _ => rfl

theorem tick_lines (s : State) : s.tick.lines = if s.tick.time.getLsbD 0 then s.lines else s.lines.sampled := rfl

theorem tick_engine (s : State) : s.tick.engine = { s.engine with
    cleanRun := s.engine.cleanRun.map (CleanRun.accrue s.runningTime) } := rfl

theorem idle_running {s : State} (hm : s.mode = .running) (hp : s.pending = []) (hd : s.due = []) :
    step s = .next s.tick := by
  unfold step
  rw [hp]
  dsimp only
  unfold State.idle
  rw [hm, hd]

theorem idle_due {s : State} (hm : s.mode = .running) (hp : s.pending = []) {first : Instr} {others : List Instr}
    (hd : s.due = first :: others) : step s = .next (s.queueOne first others) := by
  unfold step
  rw [hp]
  dsimp only
  unfold State.idle
  rw [hm, hd]

/-- Settles O2: the idle step by mode, one microsecond field by field, and due as what arises. -/
theorem idlePartCountsAndSamples : Obligations.IdlePartCountsAndSamples := by
  refine ⟨fun s hp => ⟨fun hm => ?_, fun hm => ?_⟩, fun s hm hp => ⟨fun hd => ?_, fun hd => ?_⟩,
    fun c s => mem_due_iff_arises s c, fun c s => exec_of_not_arises,
    fun a b c s h => exec_early rfl (mt (dwellDue_iff s).mp h)⟩
  · unfold step State.idle
    rw [hp]
    rcases hm with hm | hm <;> rw [hm]
  · unfold step State.idle
    rw [hp]
    rcases hm with hm | hm <;> rw [hm]
  · obtain ⟨first, others, hd⟩ := List.exists_cons_of_ne_nil hd
    obtain ⟨⟨c, hc, hq⟩, hf⟩ := queueOne_spec s first others
    exact ⟨c, hd ▸ hc, _, idle_due hm hp hd, hq, hf⟩
  · refine ⟨s.tick, idle_running hm hp hd, rfl, accrue_eq s s.accrual, ?_, rfl, tick_frame s, fun ho => ?_,
      fun he => ?_⟩
    · rw [tick_engine, show CleanRun.accrue s.runningTime = _ from
        funext fun x => congrArg (fun n => { x with accrual := n }) (accrue_eq s x.accrual)]
    · rw [tick_lines, if_pos ((odd_iff _).mpr ho)]
    · have hodd : ¬s.tick.time.getLsbD 0 = true := fun h => by
        rw [(odd_iff _).mp h] at he
        cases he
      rw [tick_lines, if_neg hodd]
      exact ⟨sampled_passed _ _, sampled_passed _ _, sampled_passed _ _, sampled_passed _ _, sampled_passed _ _,
        sampled_passed _ _⟩

end Sys2Proof.Machine
end

section
/-! Proofs: CLEAR_TALLY (R6, R20, R29, R58, R60, R100). -/

namespace Sys2Proof.Machine

/-! ## Scopes (R20) -/

theorem phasePositions_nodup (q : Nat) : (phasePositions q).Nodup := (List.nodup_finRange 30).filter _

theorem scopeOf_above {kind : Byte} (h : 2 < kind.toNat) (b : Byte) : scopeOf kind b = none := by
  unfold scopeOf
  split
  · omega
  · omega
  · omega
  · rfl

/-- No scope names a position twice. -/
theorem scopeOf_nodup {kind index : Byte} {scope : List Pos} (h : scopeOf kind index = some scope) : scope.Nodup := by
  unfold scopeOf at h
  split at h
  · obtain ⟨p, -, rfl⟩ := Option.map_eq_some_iff.mp h
    exact List.nodup_singleton p
  · split at h <;> cases h
    exact phasePositions_nodup _
  · cases h
    exact List.nodup_finRange 30
  · cases h

/-- The scopes by their kinds: a position, a phase, all (R20). -/
theorem scopeOf_kinds :
    (∀ p : Pos, scopeOf 0 (posByte p) = some [p]) ∧
    (∀ b : Byte, 30 ≤ b.toNat → scopeOf 0 b = none) ∧
    (∀ q : Byte, q.toNat ≤ 2 → ∃ l, scopeOf 1 q = some l ∧ l.Nodup ∧ ∀ p : Pos, p ∈ l ↔ p.val / 10 = q.toNat) ∧
    (∀ b : Byte, 2 < b.toNat → scopeOf 1 b = none) ∧
    ∀ b : Byte, ∃ l, scopeOf 2 b = some l ∧ l.Nodup ∧ ∀ p : Pos, p ∈ l := by
  refine ⟨fun p => ?_, fun b hb => ?_,
    fun q hq => ⟨phasePositions q.toNat, if_pos hq, phasePositions_nodup _, fun p => ?_⟩,
    fun b hb => if_neg (by omega), fun b => ⟨allPositions, rfl, List.nodup_finRange 30, List.mem_finRange⟩⟩
  · show (posOfByte (posByte p)).map _ = _
    rw [posOfByte_posByte]
    rfl
  · show (posOfByte b).map _ = _
    rw [posOfByte_above hb]
    rfl
  · simp [phasePositions, allPositions, phaseOf]

/-! ## Tallies cleared, and the records released whose contact reads OPEN (R29) -/

/-- Every record in scope with its tally cleared and released where QUARANTINED (R29). -/
def State.scopeCleared (s : State) (scope : List Pos) : State :=
  s.mapRecords fun p r => if scope.contains p then r.tallyCleared else r

/-- The positions in scope whose records are released and read OPEN, in the order of the scope (R29). -/
def State.openedIn (s : State) (scope : List Pos) : List Pos :=
  (scope.filter fun p => (s.record p).state == .quarantined).filter fun p => (s.record p).contact == .opened

theorem requestClearTally_eq {kind index : Byte} {scope : List Pos} (h : scopeOf kind index = some scope)
    (s : State) :
    requestClearTally kind index s =
      { reply := .done (item1 (scope.filter fun p => (s.record p).state == .quarantined).length)
        state := (s.openedIn scope).foldl State.releasedOpen (s.scopeCleared scope) } := by
  unfold requestClearTally
  rw [h]
  rfl

theorem mem_openedIn {s : State} {scope : List Pos} {p : Pos} : p ∈ s.openedIn scope ↔
    (p ∈ scope ∧ (s.record p).state = .quarantined) ∧ (s.record p).contact = .opened := by
  unfold State.openedIn
  rw [List.mem_filter, List.mem_filter, beq_iff_eq, beq_iff_eq]

theorem openedIn_length (s : State) (scope : List Pos) : (s.openedIn scope).length =
    (scope.filter fun p => (s.record p).state == .quarantined && (s.record p).contact == .opened).length := by
  unfold State.openedIn
  rw [List.filter_filter]
  simp only [Bool.and_comm]

theorem openedIn_nodup (s : State) {scope : List Pos} (h : scope.Nodup) : (s.openedIn scope).Nodup :=
  (h.filter _).filter _

theorem scopeCleared_frame (s : State) (scope : List Pos) : s.ChangesOnly (s.scopeCleared scope) [.roster] :=
  mapRecords_frame s _

theorem scopeCleared_outside {s : State} {scope : List Pos} {p : Pos} (h : p ∉ scope) :
    (s.scopeCleared scope).record p = s.record p := by
  unfold State.scopeCleared
  rw [State.record_mapRecords, if_neg (by simpa using h)]

theorem scopeCleared_inside {s : State} {scope : List Pos} {p : Pos} (h : p ∈ scope) :
    (s.scopeCleared scope).record p = { s.record p with
      tally := 0, state := if (s.record p).state = .quarantined then .bypassed else (s.record p).state } := by
  unfold State.scopeCleared
  rw [State.record_mapRecords, if_pos (by simpa using h)]
  rfl

/-- A record released reads BYPASSED when its contact is looked at (R29). -/
theorem scopeCleared_opened {s : State} {scope : List Pos} {p : Pos} (h : p ∈ s.openedIn scope) :
    (s.scopeCleared scope).record p = { s.record p with tally := 0, state := .bypassed } := by
  obtain ⟨⟨hp, hq⟩, -⟩ := mem_openedIn.mp h
  rw [scopeCleared_inside hp, if_pos hq]

/-! ## In CONFIG (R18) -/

/-- The records of a list of BYPASSED ones follow their OPEN contacts, one after another (R18). -/
theorem releasedOpen_foldl_config (l : List Pos) (s : State) (hc : s.engine.state = .config) (hn : l.Nodup)
    (hb : ∀ p ∈ l, (s.record p).state = .bypassed) :
    let t := l.foldl State.releasedOpen s
    (∀ p, p ∉ l → t.record p = s.record p) ∧
    (∀ p ∈ l, t.record p = { s.record p with state := .inService }) ∧ s.ChangesOnly t [.roster] := by
  induction l generalizing s with
  | nil => exact ⟨fun _ _ => rfl, nofun, .refl s _⟩
  | cons q l ih =>
    obtain ⟨hq, hn⟩ := List.nodup_cons.mp hn
    have hstep : s.releasedOpen q = s.setRecord q { s.record q with state := .inService } := by
      unfold State.releasedOpen Record.follow
      rw [if_pos hc, hb q List.mem_cons_self]
      rfl
    have hne {p : Pos} (hp : p ∈ l) : p ≠ q := fun e => hq (e ▸ hp)
    rw [List.foldl_cons, hstep]
    obtain ⟨iout, iin, iframe⟩ := ih (s.setRecord q { s.record q with state := .inService }) hc hn fun p hp => by
      rw [State.record_setRecord_ne _ _ _ _ (hne hp)]
      exact hb p (List.mem_cons_of_mem q hp)
    refine ⟨fun p hp => ?_, fun p hp => ?_, (setRecord_frame s q _).trans iframe⟩
    · rw [List.mem_cons, not_or] at hp
      exact (iout p hp.2).trans (State.record_setRecord_ne s q p _ hp.1)
    · rcases List.mem_cons.mp hp with rfl | hp
      · exact (iout p hq).trans (State.record_setRecord_same s p _)
      · rw [iin p hp, State.record_setRecord_ne _ _ _ _ (hne hp)]

/-! ## Elsewhere (R58, R60) -/

/-- The engine states in which a CONTACT_OPEN of a record out of service sends the fault notice (R60). -/
def EngineState.notices (st : EngineState) : Prop :=
  st = .publishing ∨ st = .verifying ∨ st = .proving ∨ st = .running

/-- CONTACT_OPENs taken of a list of positions, one after another. -/
def State.contactsOpen (s : State) (l : List Pos) : State := l.foldl (fun t p => t.applyContactOpen p t.time) s

/-- Where no notice is sent, the reports of the released records are taken and nothing follows (R60). -/
theorem releasedOpen_foldl_quiet (l : List Pos) (s : State) (hc : s.engine.state ≠ .config)
    (hq : ¬s.engine.state.notices) (hn : l.Nodup) (hb : ∀ p ∈ l, (s.record p).state = .bypassed) :
    l.foldl State.releasedOpen s = s.contactsOpen l := by
  induction l generalizing s with
  | nil => rfl
  | cons q l ih =>
    obtain ⟨hql, hn⟩ := List.nodup_cons.mp hn
    have hstep : s.releasedOpen q = s.applyContactOpen q s.time := by
      unfold State.releasedOpen
      rw [if_neg hc, if_pos (hb q List.mem_cons_self)]
      exact (takeContactOpen_spec s q).2 hq
    obtain ⟨hother, -, -, -, -, hframe⟩ := applyContactOpen_spec s q
    have heng : (s.applyContactOpen q s.time).engine = s.engine := hframe .engine (by decide)
    rw [List.foldl_cons, hstep]
    refine ih _ (by rwa [heng]) (by rwa [heng]) hn fun p hp => ?_
    rw [hother p fun e => hql (e ▸ hp)]
    exact hb p (List.mem_cons_of_mem q hp)

/-- A CONTACT_OPEN taken writes the roster and the matrix by what stands in them and by the time base. -/
theorem applyContactOpen_congr {a x : State} (p : Pos) (hr : x.roster = a.roster) (hm : x.matrix = a.matrix)
    (ht : x.time = a.time) :
    (x.applyContactOpen p x.time).roster = (a.applyContactOpen p a.time).roster ∧
    (x.applyContactOpen p x.time).matrix = (a.applyContactOpen p a.time).matrix := by
  have hrec : x.record p = a.record p := State.record_congr hr p
  unfold State.applyContactOpen
  dsimp only
  rw [hrec, ht]
  split
  · exact ⟨congrArg (fun v : Vector Record 30 => v.set p _) hr,
      congrArg (fun m : Matrix => { m with orders := insertEntry (plainClose p a.time) m.orders }) hm⟩
  · exact ⟨congrArg (fun v : Vector Record 30 => v.set p _) hr, hm⟩

theorem contactsOpen_congr (l : List Pos) {a x : State} (hr : x.roster = a.roster) (hm : x.matrix = a.matrix)
    (ht : x.time = a.time) :
    (x.contactsOpen l).roster = (a.contactsOpen l).roster ∧
    (x.contactsOpen l).matrix = (a.contactsOpen l).matrix := by
  induction l generalizing a x with
  | nil => exact ⟨hr, hm⟩
  | cons p l ih =>
    obtain ⟨hr', hm'⟩ := applyContactOpen_congr p hr hm ht
    obtain ⟨-, -, -, -, -, hfx⟩ := applyContactOpen_spec x p
    obtain ⟨-, -, -, -, -, hfa⟩ := applyContactOpen_spec a p
    exact ih hr' hm' (Eq.trans (hfx .time (by decide)) (ht.trans (Eq.symm (hfa .time (by decide)))))

/-- Two states that raise the same flags keep the flags raised between them. -/
theorem State.Raises.beside {s t u v : State} {k l : List Flag} (hst : s.Raises t l) (hsu : s.Raises u k)
    (htv : t.Raises v k) : u.Raises v l := by
  refine ⟨fun f => ?_, ?_⟩
  · rw [htv.1 f, hst.1 f, hsu.1 f, Bool.or_assoc, Bool.or_assoc, Bool.or_comm (l.contains f)]
  · rw [htv.2, hst.2, hsu.2]

/-- Attempt accounting is the same beside reports that change neither the engine nor the publisher and leave a
closure outstanding before and after (R101, R102). -/
theorem State.Accounts.beside {a x u v : State} {o : PassOutcome} (h : a.Accounts x o) (ha : a.Outstanding)
    (hu : u.Outstanding) {k : List Flag} (hau : a.Raises u k) (hxv : x.Raises v k)
    (hfu : a.ChangesOnly u [.roster, .matrix, .port]) (hfv : x.ChangesOnly v [.roster, .matrix, .port])
    (hr : v.roster = u.roster) (hm : v.matrix = u.matrix) : u.Accounts v o := by
  unfold State.Accounts at h ⊢
  have hue : u.engine = a.engine := hfu .engine (by decide)
  have hul : u.lines = a.lines := hfu .lines (by decide)
  have hup : u.params = a.params := hfu .params (by decide)
  have hut : u.time = a.time := hfu .time (by decide)
  have hupub : u.publisher = a.publisher := hfu .publisher (by decide)
  have hve : v.engine = x.engine := hfv .engine (by decide)
  have hvpub : v.publisher = x.publisher := hfv .publisher (by decide)
  rw [hue, hul, hup, hut, hupub, hve, hvpub]
  obtain ⟨h1, h2, h3, h4, -⟩ := h
  refine ⟨fun c => ?_, fun c d => ?_, fun c d _ => ?_, fun _ => ?_, fun _ _ hn => absurd hu hn⟩
  · obtain ⟨he, hra⟩ := h1 c
    exact ⟨he, hra.beside hau hxv⟩
  · obtain ⟨he, hra⟩ := h2 c d
    exact ⟨he, hra.beside hau hxv⟩
  · obtain ⟨he, hra⟩ := h3 c d ha
    exact ⟨he, hra.beside hau hxv⟩
  · obtain ⟨hpub, hframe⟩ := h4 (.inr (.inr ha))
    refine ⟨hpub, fun y hy => ?_⟩
    by_cases hrm : y ∈ [Part.roster, .matrix, .port]
    · cases y with
      | roster => exact hr
      | matrix => exact hm
      | port => exact absurd (by decide) hy
      | _ => exact absurd hrm (by decide)
    · have hau' := hfu y hrm
      have hxv' := hfv y hrm
      have hax := hframe y hy
      cases y <;> exact Eq.trans hxv' (Eq.trans hax (Eq.symm hau'))

/-- Attempt accounting with a closure outstanding ends where no further notice is sent, and outside CONFIG
(R102, R103). -/
theorem State.Accounts.quiet {a x : State} {o : PassOutcome} (h : a.Accounts x o) (ha : a.Outstanding) :
    x.engine.state ≠ .config ∧ ¬x.engine.state.notices ∧ a.ChangesOnly x [.engine, .publisher, .port] := by
  obtain ⟨h1, h2, h3, h4, -⟩ := h
  have hst : x.engine.state = .lockout ∨ x.engine.state = .halted ∨ x.engine.state = .bypassing := by
    by_cases hb : a.engine.attempts < a.params.attemptLimit a.lines.manride.level
    · cases hk : a.lines.brakeSet.level with
      | false => exact .inr (.inl (by rw [(h2 hb hk).1]; rfl))
      | true => exact .inr (.inr (by rw [(h3 hb hk ha).1]; rfl))
    · exact .inl (by rw [(h1 hb).1]; rfl)
  refine ⟨?_, ?_, (h4 (.inr (.inr ha))).2⟩
  · rcases hst with e | e | e <;> rw [e] <;> decide
  · unfold EngineState.notices
    rcases hst with e | e | e <;> rw [e] <;> decide

/-- Where the notice is sent, the first report's ends the pass and makes attempt accounting, and the others follow it
without a notice of their own: the accounting of the state that all the reports leave (R60, R100). -/
theorem releasedOpen_foldl_noticed {l : List Pos} (hl : l ≠ []) {s : State} (hq : s.engine.state.notices)
    (hn : l.Nodup) (hb : ∀ p ∈ l, (s.record p).state = .bypassed) (hm : ∀ p ∈ l, (s.record p).closeFailed = false) :
    (s.contactsOpen l).Accounts (l.foldl State.releasedOpen s) .endedByFault := by
  obtain ⟨q, l, rfl⟩ := List.exists_cons_of_ne_nil hl
  obtain ⟨hql, hn⟩ := List.nodup_cons.mp hn
  have hqb := hb q List.mem_cons_self
  obtain ⟨hother, hrec, -, -, -, hframe⟩ := applyContactOpen_spec s q
  have hnotified := (takeContactOpen_spec s q).1 hq
  have hstep : s.releasedOpen q = s.takeContactOpen q := by
    unfold State.releasedOpen
    rw [if_neg (by rcases hq with e | e | e | e <;> rw [e] <;> decide), if_pos hqb]
  rw [List.foldl_cons, hstep]
  show ((s.applyContactOpen q s.time).contactsOpen l).Accounts _ _
  have hab (p : Pos) (hp : p ∈ l) : ((s.applyContactOpen q s.time).record p).state = .bypassed := by
    rw [hother p fun e => hql (e ▸ hp)]
    exact hb p (List.mem_cons_of_mem q hp)
  have haq : ((s.applyContactOpen q s.time).record q).state = .faulted ∧
      ((s.applyContactOpen q s.time).record q).closeFailed = false := by
    rw [hrec]
    exact ⟨if_pos hqb, hm q List.mem_cons_self⟩
  have hae : (s.applyContactOpen q s.time).engine = s.engine := hframe .engine (by decide)
  generalize s.applyContactOpen q s.time = a at hab haq hae hnotified ⊢
  generalize s.takeContactOpen q = x at hnotified ⊢
  have ha : a.Outstanding := .inl ⟨q, .inl haq⟩
  have hacc : a.Accounts x .endedByFault := by
    unfold State.Notified at hnotified
    rw [hae] at hnotified
    exact (if_pos hq).mp hnotified
  obtain ⟨hxc, hxq, hxf⟩ := hacc.quiet ha
  have hxr : x.roster = a.roster := hxf .roster (by decide)
  have hxb (p : Pos) (hp : p ∈ l) : (x.record p).state = .bypassed := State.record_congr hxr p ▸ hab p hp
  rw [releasedOpen_foldl_quiet l x hxc hxq hn hxb]
  obtain ⟨aout, -, -, -, -, -, araise, anil, aframe⟩ := applyContactOpen_foldl l a hn hab
  obtain ⟨-, -, -, -, -, -, xraise, xnil, xframe⟩ := applyContactOpen_foldl l x hn hxb
  obtain ⟨hr, hmat⟩ := contactsOpen_congr l hxr (hxf .matrix (by decide)) (hxf .time (by decide))
  have huq : (a.contactsOpen l).record q = a.record q := aout q hql
  have hu : (a.contactsOpen l).Outstanding := .inl ⟨q, .inl (huq.symm ▸ haq)⟩
  by_cases hnil : l = []
  · subst hnil
    exact hacc
  · exact hacc.beside ha hu (araise hnil) (xraise hnil) aframe xframe hr hmat

/-- The records outside the list of those that read OPEN, as an accepted CLEAR_TALLY leaves them (R29). -/
theorem clearTally_rest {s u : State} {scope : List Pos}
    (hu : ∀ p, p ∉ s.openedIn scope → u.record p = (s.scopeCleared scope).record p) :
    (∀ p, p ∉ scope → u.record p = s.record p) ∧
    (∀ p, p ∈ scope → ¬(p ∈ scope ∧ (s.record p).state = .quarantined) →
      u.record p = { s.record p with tally := 0 }) ∧
    (∀ p, p ∈ scope ∧ (s.record p).state = .quarantined → p ∉ s.openedIn scope →
      u.record p = { s.record p with tally := 0, state := .bypassed }) := by
  refine ⟨fun p hp => ?_, fun p hp hr => ?_, fun p hr ho => ?_⟩
  · rw [hu p fun h => hp (mem_openedIn.mp h).1.1, scopeCleared_outside hp]
  · rw [hu p fun h => hr (mem_openedIn.mp h).1, scopeCleared_inside hp, if_neg fun h => hr ⟨hp, h⟩]
  · rw [hu p ho, scopeCleared_inside hr.1, if_pos hr.2]

/-- The reports of the released records that read OPEN, from the state before the clearing (R6, R29, R58). -/
theorem clearTally_reports (s : State) {scope : List Pos} (hn : scope.Nodup) :
    let u := (s.scopeCleared scope).contactsOpen (s.openedIn scope)
    (∀ p, p ∉ s.openedIn scope → u.record p = (s.scopeCleared scope).record p) ∧
    (∀ p ∈ s.openedIn scope, u.record p = { s.record p with
      tally := 0, state := .faulted, cause := some .contactOpen, stamp := some s.time }) ∧
    (s.openedIn scope = [] → u.matrix = s.matrix ∧ u.port = s.port) ∧
    (s.openedIn scope ≠ [] → s.Raises u [.faultTaken]) ∧
    (s.matrix.orders.Sublist u.matrix.orders ∧
      (∀ e, e ∈ u.matrix.orders ↔ e ∈ s.matrix.orders ∨ ∃ p ∈ s.openedIn scope, e = plainClose p s.time) ∧
      u.matrix.orders.length = s.matrix.orders.length + (s.openedIn scope).length ∧
      u.matrix = { s.matrix with orders := u.matrix.orders }) ∧
    s.ChangesOnly u [.roster, .matrix, .port] := by
  have hcf := scopeCleared_frame s scope
  have hcm : (s.scopeCleared scope).matrix = s.matrix := hcf .matrix (by decide)
  have hcp : (s.scopeCleared scope).port = s.port := hcf .port (by decide)
  have hct : (s.scopeCleared scope).time = s.time := hcf .time (by decide)
  obtain ⟨uout, uin, usub, umem, ulen, umat, uraise, unil, uframe⟩ :=
    applyContactOpen_foldl (s.openedIn scope) (s.scopeCleared scope) (openedIn_nodup s hn)
      fun p hp => by rw [scopeCleared_opened hp]
  intro u
  rw [hcm, hct] at umem
  rw [hcm] at usub ulen umat
  refine ⟨uout, fun p hp => ?_, fun hnil => ?_, fun hne => (uraise hne).before hcp, ⟨usub, umem, ulen, umat⟩,
    (hcf.more (by decide)).trans uframe⟩
  · exact (uin p hp).trans (by rw [scopeCleared_opened hp, hct])
  · have hu : u = s.scopeCleared scope := unil hnil
    rw [hu]
    exact ⟨hcm, hcp⟩

/-- What follows the reports outside CONFIG: attempt accounting where the notice is sent and one was taken, and
nothing elsewhere (R60, R100). -/
theorem clearTally_follows (s : State) {scope : List Pos} (hn : scope.Nodup) (hc : s.engine.state ≠ .config)
    (hm : s.engine.state.notices → ∀ p ∈ s.openedIn scope, (s.record p).closeFailed = false) :
    let u := (s.scopeCleared scope).contactsOpen (s.openedIn scope)
    let v := (s.openedIn scope).foldl State.releasedOpen (s.scopeCleared scope)
    (s.engine.state.notices ∧ s.openedIn scope ≠ [] → u.Accounts v .endedByFault) ∧
    (¬(s.engine.state.notices ∧ s.openedIn scope ≠ []) → v = u) := by
  have hce : (s.scopeCleared scope).engine = s.engine := scopeCleared_frame s scope .engine (by decide)
  have hb (p : Pos) (hp : p ∈ s.openedIn scope) : ((s.scopeCleared scope).record p).state = .bypassed := by
    rw [scopeCleared_opened hp]
  intro u v
  refine ⟨fun ⟨hq, hne⟩ => ?_, fun h => ?_⟩
  · refine releasedOpen_foldl_noticed hne (by rwa [hce]) (openedIn_nodup s hn) hb fun p hp => ?_
    rw [scopeCleared_opened hp]
    exact hm hq p hp
  · by_cases hq : s.engine.state.notices
    · have hnil : s.openedIn scope = [] := by_contra fun hne => h ⟨hq, hne⟩
      show (s.openedIn scope).foldl State.releasedOpen _ = State.contactsOpen _ (s.openedIn scope)
      rw [hnil]
      rfl
    · exact releasedOpen_foldl_quiet _ _ (by rwa [hce]) (by rwa [hce]) (openedIn_nodup s hn) hb

theorem releasedOpen_frame (s : State) (p : Pos) : s.ChangesOnly (s.releasedOpen p) noticeParts := by
  have hopen : s.ChangesOnly (s.takeContactOpen p) noticeParts := by
    have hf := (applyContactOpen_frame s p s.time).more (l' := noticeParts) (by decide)
    unfold State.takeContactOpen
    split
    · exact hf.trans (faultNotice_frame _)
    · exact hf.trans (faultNotice_frame _)
    · exact hf.trans (faultNotice_frame _)
    · exact hf.trans (faultNotice_frame _)
    · exact hf
    · exact hf
    · exact hf
    · exact hf
    · exact hf
    · exact hf
  unfold State.releasedOpen
  split
  · exact (setRecord_frame s p _).more (by decide)
  · split
    · exact hopen
    · exact .refl s _

/-- Settles O15: the scopes; the records cleared and released; then the reports of those that read OPEN, followed in
CONFIG, and elsewhere by accounting or nothing. -/
theorem clearTallyReleasesRecords : Obligations.ClearTallyReleasesRecords := by
  obtain ⟨k1, k2, k3, k4, k5⟩ := scopeOf_kinds
  refine ⟨k1, k2, k3, k4, k5, fun kind b h => scopeOf_above h b, fun tag kind index s hm => ⟨fun hnone => ?_, ?_⟩⟩
  · refine refuses_of hm rfl ?_
    unfold requestClearTally
    rw [hnone]
  intro scope hscope released opened listed ends hmark
  have hnodup := scopeOf_nodup hscope
  have hopened (p : Pos) : p ∈ s.openedIn scope ↔ opened p := mem_openedIn
  have hexists : (∃ p, opened p) ↔ s.openedIn scope ≠ [] :=
    ⟨fun ⟨p, h⟩ => List.ne_nil_of_mem ((hopened p).mpr h),
      fun h => (List.exists_mem_of_ne_nil _ h).imp fun p => (hopened p).mp⟩
  have hperforms (v : State) (hv : (s.openedIn scope).foldl State.releasedOpen (s.scopeCleared scope) = v)
      (ht : v.time = s.time) : s.Performs (.clearTally tag kind index) tag .done
        [byteOf (scope.filter fun p => (s.record p).state == .quarantined).length] v := by
    refine performs_of hm rfl ?_ ht
    rw [requestClearTally_eq hscope, hv]
    rfl
  have htime : ((s.openedIn scope).foldl State.releasedOpen (s.scopeCleared scope)).time = s.time :=
    (((scopeCleared_frame s scope).more (l' := noticeParts) (by decide)).trans
      (State.ChangesOnly.foldl _ releasedOpen_frame _ _)) .time (by decide)
  by_cases hc : s.engine.state = .config
  · have hcf := scopeCleared_frame s scope
    have hce : (s.scopeCleared scope).engine = s.engine := hcf .engine (by decide)
    obtain ⟨uout, uin, uframe⟩ := releasedOpen_foldl_config (s.openedIn scope) (s.scopeCleared scope) (by rwa [hce])
      (openedIn_nodup s hnodup) fun p hp => by rw [scopeCleared_opened hp]
    generalize hv : (s.openedIn scope).foldl State.releasedOpen (s.scopeCleared scope) = v at uout uin uframe htime
    obtain ⟨r1, r2, r3⟩ := clearTally_rest uout
    have hframe := hcf.trans uframe
    have hnot : ¬ends := fun he => by rcases he.1 with e | e | e | e <;> rw [hc] at e <;> cases e
    refine ⟨v, v, hperforms v hv htime, fun he => absurd he hnot, fun _ => rfl, r1, r2,
      fun p hr ho => r3 p hr (mt (hopened p).mp ho), fun p ho _ => ?_, fun p _ hn => absurd hc hn,
      fun _ => ⟨hframe .matrix (by decide), hframe .port (by decide)⟩, fun hn => absurd hc hn,
      fun hn => absurd hc hn, hframe.more (by decide)⟩
    rw [uin p ((hopened p).mpr ho), scopeCleared_opened ((hopened p).mpr ho)]
  · obtain ⟨uout, uin, unone, uraise, ⟨usub, umem, ulen, umat⟩, uframe⟩ := clearTally_reports s hnodup
    obtain ⟨hends, hnot⟩ := clearTally_follows s hnodup hc fun hq p hp =>
      hmark ⟨hq, p, (hopened p).mp hp⟩ p ((hopened p).mp hp)
    have hends_iff : ends ↔ s.engine.state.notices ∧ s.openedIn scope ≠ [] := and_congr_right' hexists
    generalize hv : (s.openedIn scope).foldl State.releasedOpen (s.scopeCleared scope) = v at hends hnot htime
    generalize (s.scopeCleared scope).contactsOpen (s.openedIn scope) = u at *
    obtain ⟨r1, r2, r3⟩ := clearTally_rest uout
    refine ⟨u, v, hperforms v hv htime, fun he => hends (hends_iff.mp he), fun he => hnot (mt hends_iff.mpr he),
      r1, r2, fun p hr ho => r3 p hr (mt (hopened p).mp ho), fun p _ h => absurd h hc,
      fun p ho _ => uin p ((hopened p).mpr ho), fun h => unone ?_, fun _ he => uraise (hexists.mp he),
      fun _ => ⟨usub, fun e => (umem e).trans ?_, ?_, umat⟩, uframe⟩
    · exact not_not.mp (mt hexists.mpr (not_exists.mpr (h.resolve_left hc)))
    · simp only [hopened]
      rfl
    · rw [ulen, openedIn_length]

end Sys2Proof.Machine
end

section
/-! Proofs: the bits of line words, the fields of an uplink frame and the items of a payload (R31, R35, R152, R176,
R201). -/

namespace Sys2Proof.Machine

/-! ## Words on the lines (R31, R152) -/

/-- Folding exclusive or over bits counts the ones modulo 2. -/
theorem foldl_xor_eq {α : Type} (f : α → Bool) (l : List α) (b : Bool) :
    l.foldl (fun p a => p ^^ f a) b = (b ^^ decide ((l.filter f).length % 2 = 1)) := by
  induction l generalizing b with
  | nil => simp
  | cons a l ih =>
    rw [List.foldl_cons, ih, List.filter_cons]
    cases f a
    · simp
    · rcases Nat.mod_two_eq_zero_or_one (l.filter f).length with h | h <;> simp [h, Nat.add_mod]

/-- The parity of a word is right when its ten bits after the start bit hold an even number of ones (R31). -/
theorem parityRight_iff (w : BitVec 12) :
    parityRight w = true ↔ ((List.range 10).filter fun i => w.getLsbD (i + 1)).length % 2 = 0 := by
  unfold parityRight
  rw [foldl_xor_eq]
  simp

/-- A low start bit, then eight data bits least significant first, then what stands above them (R201). -/
theorem startAndData_bits {n : Nat} (top : BitVec n) (b : Byte) :
    ((top ++ b) ++ 0#1).getLsbD 0 = false ∧ (∀ i < 8, ((top ++ b) ++ 0#1).getLsbD (i + 1) = b.getLsbD i) ∧
    ∀ i, ((top ++ b) ++ 0#1).getLsbD (i + 9) = top.getLsbD i := by
  refine ⟨?_, fun i hi => ?_, fun i => ?_⟩ <;> rw [BitVec.getLsbD_append]
  · rfl
  · rw [if_neg (by omega), BitVec.getLsbD_append, if_pos (by omega), Nat.add_sub_cancel]
  · rw [if_neg (by omega), BitVec.getLsbD_append, if_neg (by omega)]
    rfl

/-- The bit times of a line word as it is sent (R31, R201). -/
theorem lineWord_bits (b : Byte) (marker : Bool) :
    (lineWord b marker).getLsbD 0 = false ∧
    (∀ i < 8, (lineWord b marker).getLsbD (i + 1) = b.getLsbD i) ∧
    (lineWord b marker).getLsbD 9 = marker ∧
    (lineWord b marker).getLsbD 10 = (List.range 8).foldl (fun p t => p ^^ b.getLsbD t) marker ∧
    (lineWord b marker).getLsbD 11 = true := by
  unfold lineWord
  dsimp only
  generalize (List.range 8).foldl (fun p t => p ^^ b.getLsbD t) marker = parity
  obtain ⟨hstart, hdata, habove⟩ := startAndData_bits
    ((1#1 ++ if parity = true then 1#1 else 0#1) ++ if marker = true then 1#1 else 0#1) b
  refine ⟨hstart, hdata, (habove 0).trans ?_, (habove 1).trans ?_, (habove 2).trans ?_⟩ <;>
    cases parity <;> cases marker <;> rfl

theorem lineData_lineWord (b : Byte) (marker : Bool) : lineData (lineWord b marker) = b := by
  obtain ⟨-, hdata, -⟩ := lineWord_bits b marker
  refine BitVec.eq_of_getLsbD_eq fun i hi => ?_
  unfold lineData
  rw [BitVec.getLsbD_extractLsb', Nat.add_comm, hdata i hi]
  simp [hi]

theorem lineMarker_lineWord (b : Byte) (marker : Bool) : lineMarker (lineWord b marker) = marker := by
  obtain ⟨-, -, hmarker, -⟩ := lineWord_bits b marker
  exact hmarker

/-- The parity of a word as it is sent is right: its parity bit is the parity of data and marker. -/
theorem parityRight_lineWord (b : Byte) (marker : Bool) : parityRight (lineWord b marker) = true := by
  obtain ⟨-, hdata, hmarker, hparity, -⟩ := lineWord_bits b marker
  have hfold : (List.range 8).foldl (fun p t => p ^^ (lineWord b marker).getLsbD (t + 1)) false =
      (List.range 8).foldl (fun p t => p ^^ b.getLsbD t) false :=
    List.foldl_ext _ _ _ fun p t ht => by rw [hdata t (List.mem_range.mp ht)]
  unfold parityRight
  rw [List.range_succ, List.range_succ, List.foldl_append, List.foldl_append, hfold]
  simp only [List.foldl_cons, List.foldl_nil, hmarker, hparity, foldl_xor_eq]
  cases marker <;> simp

theorem lineFaulty_lineWord (b : Byte) (marker : Bool) : lineFaulty (lineWord b marker) = false := by
  obtain ⟨-, -, -, -, hstop⟩ := lineWord_bits b marker
  unfold lineFaulty
  rw [parityRight_lineWord, hstop]
  rfl

/-- The bit times of a word of the modulation link as it is sent (R152, R201). -/
theorem modWord_bits (b : Byte) :
    (modWord b).getLsbD 0 = false ∧ (∀ i < 8, (modWord b).getLsbD (i + 1) = b.getLsbD i) ∧
    (modWord b).getLsbD 9 = true := by
  obtain ⟨hstart, hdata, habove⟩ := startAndData_bits 1#1 b
  exact ⟨hstart, hdata, habove 0⟩

theorem modData_modWord (b : Byte) : modData (modWord b) = b := by
  obtain ⟨-, hdata, -⟩ := modWord_bits b
  refine BitVec.eq_of_getLsbD_eq fun i hi => ?_
  unfold modData
  rw [BitVec.getLsbD_extractLsb', Nat.add_comm, hdata i hi]
  simp [hi]

/-! ## Uplink fields and payload items (R35, R176) -/

/-- The fault code of an uplink frame: the seven codes in their order, and CONTROL from 7 on (R35). -/
theorem decodeCode_eq (n : Nat) : decodeCode n =
    ([.none, .dcOver, .dcUnder, .overtemp, .desat, .gateSupply, .inputFuse] : List CellCode).getD n .control := by
  rcases Nat.lt_or_ge n 7 with h | h
  · interval_cases n <;> rfl
  · rw [List.getD_eq_default _ _ h]
    obtain ⟨m, rfl⟩ := Nat.exists_eq_add_of_le' h
    rfl

/-- The four bytes of a value are its two halves, the high one first (R201). -/
theorem bytes4_eq (n : Nat) : bytes4 n = bytes2 (n / 65536) ++ bytes2 (n % 65536) := by
  have hbyte {a b : Nat} (h : a % 256 = b % 256) : byteOf a = byteOf b := BitVec.eq_of_toNat_eq (by simpa [byteOf])
  unfold bytes4 bytes2
  simp only [List.cons_append, List.nil_append, List.cons.injEq, and_true]
  exact ⟨hbyte (by omega), trivial, hbyte (by omega), hbyte (by omega)⟩

/-- Settles O29: the bits of a word by its layout, the fields and the bytes by division. -/
theorem fieldsWordsAndItemsAreLaidOut : Obligations.FieldsWordsAndItemsAreLaidOut := by
  refine ⟨fun b0 b1 b2 b3 => ⟨?_, ?_, ?_, fun h => if_pos h, fun h => if_neg (by omega)⟩,
    fun b marker => ?_, fun b => ?_, fun n => rfl, fun n _ => bytes4_eq n, fun n => ⟨rfl, rfl, rfl⟩,
    rfl, rfl, rfl⟩
  · simp [decodeUplink, BitVec.extractLsb'_toNat]
  · have hcode : (b0.extractLsb' 4 4).toNat = b0.toNat / 16 := by
      have := b0.isLt
      simp [BitVec.extractLsb'_toNat, Nat.shiftRight_eq_div_pow]
      omega
    exact (decodeCode_eq _).trans (by rw [hcode])
  · simp only [decodeUplink]
    omega
  · obtain ⟨hstart, hdata, hmarker, -, hstop⟩ := lineWord_bits b marker
    exact ⟨hstart, hdata, hmarker, (parityRight_iff _).mp (parityRight_lineWord b marker), hstop⟩
  · obtain ⟨hstart, hdata, hstop⟩ := modWord_bits b
    exact ⟨hstart, hdata, hstop, modData_modWord b⟩

end Sys2Proof.Machine
end

section
/-! Proofs: the framer of a cell link, from words to frames and bad frames (R30 to R34). -/

namespace Sys2Proof.Machine

/-! ## How an event of the links runs -/

/-- A command whose meaning is an event runs it while the part runs. -/
theorem exec_running {c : Instr} {s : State} {f : State → State}
    (he : exec c s = .next (s.whileRunning f)) (hm : s.mode = .running) : exec c s = .next (f s) := by
  rw [he, whileRunning_running hm]

/-! ## The framer (R30) -/

/-- Writing the receiver that stands changes nothing. -/
theorem setRx_same (s : State) (ch : Chan) : s.setRx ch (s.link ch).rx = s := by
  show s.setLinks (s.links.set ch s.links[ch.val]) = s
  rw [Vector.set_getElem_self]
  rfl

/-- Of two receivers written one after the other the second stands. -/
theorem setRx_setRx (s : State) (ch : Chan) (r r' : Receiver) : (s.setRx ch r).setRx ch r' = s.setRx ch r' := by
  simp [State.setRx, State.setLink, State.setLinks, State.link]

theorem setFraming_same {s : State} {ch : Chan} {o : Option OpenFrame} (h : (s.link ch).rx.frame = o) :
    s.setFraming ch o = s := by
  subst h
  exact setRx_same s ch

theorem setFraming_setFraming (s : State) (ch : Chan) (o o' : Option OpenFrame) :
    (s.setFraming ch o).setFraming ch o' = s.setFraming ch o' := by
  unfold State.setFraming
  rw [setRx_setRx, setRx_link]

theorem setFraming_frame (s : State) (ch : Chan) (o : Option OpenFrame) :
    ((s.setFraming ch o).link ch).rx.frame = o := by
  rw [setFraming_link]

/-! ## Words (R31 to R33) -/

section
variable {ch : Chan} {s : State} (hm : s.mode = .running)
include hm

theorem exec_uplinkFrame (b0 b1 b2 b3 b4 : Byte) : exec (.uplinkFrame ch b0 b1 b2 b3 b4) s =
    .next ((s.setFraming ch none).checkFrame ch b0 b1 b2 b3 b4) := by
  rw [exec_running rfl hm]

theorem exec_badFrame (kind : BadKind) : exec (.badFrame ch kind) s =
    .next (((s.setFraming ch none).badFrame ch).framingAfterBad ch kind) := by
  rw [exec_running rfl hm]

/-- A marker word with no frame open opens one (R32). -/
theorem exec_markerWord_closed {w : BitVec 12} (hw : lineMarker w = true) (hf : (s.link ch).rx.frame = none) :
    exec (.uplinkWord ch w) s =
      .next (s.setFraming ch (some { words := [lineData w], condemned := lineFaulty w })) := by
  rw [exec_running rfl hm]
  unfold State.uplinkWord State.markerWord
  simp only [hw, hf, Option.isSome_none, Bool.false_eq_true, if_true, if_false]

/-- A marker word in an open frame closes it as a bad frame and opens the next (R32). -/
theorem exec_markerWord_open {w : BitVec 12} (hw : lineMarker w = true) (hf : (s.link ch).rx.frame.isSome) :
    exec (.uplinkWord ch w) s = exec (.badFrame ch (.interrupted w)) s := by
  rw [exec_running rfl hm, exec_badFrame hm]
  unfold State.uplinkWord State.markerWord
  simp only [hw, hf, if_true]
  rfl

/-- A continuation word with no frame open is a bad frame (R33). -/
theorem exec_strayWord {w : BitVec 12} (hw : lineMarker w = false) (hf : (s.link ch).rx.frame = none) :
    exec (.uplinkWord ch w) s = exec (.badFrame ch (.stray w)) s := by
  rw [exec_running rfl hm, exec_badFrame hm, setFraming_same hf]
  unfold State.uplinkWord State.continuationWord
  simp only [hw, hf, Bool.false_eq_true, if_false]
  rfl

/-- A continuation word of an open frame of one to three words is held (R33). -/
theorem exec_heldWord {w : BitVec 12} {frame : OpenFrame} (hw : lineMarker w = false)
    (hf : (s.link ch).rx.frame = some frame) (hl : frame.words.length < 4) :
    exec (.uplinkWord ch w) s = .next (s.setFraming ch (some
      { words := frame.words ++ [lineData w], condemned := frame.condemned || lineFaulty w })) := by
  rw [exec_running rfl hm]
  unfold State.uplinkWord State.continuationWord
  have hshort : ¬5 ≤ (frame.words ++ [lineData w]).length := by simp; omega
  simp only [hw, hf, hshort, Bool.false_eq_true, if_false]

/-- The fifth word of a frame closes it (R33). -/
theorem exec_fifthWord {w : BitVec 12} {frame : OpenFrame} (hw : lineMarker w = false)
    (hf : (s.link ch).rx.frame = some frame) (hl : frame.words.length = 4) :
    exec (.uplinkWord ch w) s = .next (s.closeFrame ch
      { words := frame.words ++ [lineData w], condemned := frame.condemned || lineFaulty w }) := by
  rw [exec_running rfl hm]
  unfold State.uplinkWord State.continuationWord
  have hfull : 5 ≤ (frame.words ++ [lineData w]).length := by simp [hl]
  simp only [hw, hf, hfull, Bool.false_eq_true, if_true, if_false]

/-- A condemned frame closes as one bad frame (R33). -/
theorem exec_condemnedWord {w : BitVec 12} {frame : OpenFrame} (hw : lineMarker w = false)
    (hf : (s.link ch).rx.frame = some frame) (hl : frame.words.length = 4)
    (hc : (frame.condemned || lineFaulty w) = true) :
    exec (.uplinkWord ch w) s = exec (.badFrame ch .condemned) s := by
  rw [exec_fifthWord hm hw hf hl, exec_badFrame hm]
  unfold State.closeFrame
  dsimp only
  rw [if_pos hc]
  rfl

end

/-- A run of one command and more is that command and the run of the rest. -/
theorem runs_cons {s u t : State} {c : Instr} {cs : List Instr} (h : exec c s = .next u) :
    s.Runs (c :: cs) t ↔ u.Runs cs t := by
  refine ⟨fun ⟨v, hv, hr⟩ => ?_, fun hr => ⟨u, h, hr⟩⟩
  rw [h] at hv
  cases hv
  exact hr

/-- The framer of a channel holds the first words of a frame, none of them faulty. -/
def State.holding (s : State) (ch : Chan) (words : List Byte) : State :=
  s.setFraming ch (some { words := words, condemned := false })

theorem holding_frame (s : State) (ch : Chan) (words : List Byte) :
    ((s.holding ch words).link ch).rx.frame = some { words := words, condemned := false } :=
  setFraming_frame s ch _

/-- A sound continuation word after one to three held words is held too. -/
theorem exec_nextWord {s : State} (hm : s.mode = .running) {ch : Chan} {words : List Byte} (b : Byte)
    (hl : words.length < 4) :
    exec (.uplinkWord ch (lineWord b false)) (s.holding ch words) = .next (s.holding ch (words ++ [b])) := by
  rw [exec_heldWord (s := s.holding ch words) hm (lineMarker_lineWord b false) (holding_frame s ch words) hl,
    lineData_lineWord, lineFaulty_lineWord]
  exact congrArg _ (setFraming_setFraming s ch _ _)

/-- The sound fifth word hands the frame to the checksum check (R33, R34). -/
theorem exec_lastWord {s : State} (hm : s.mode = .running) {ch : Chan} (b0 b1 b2 b3 b4 : Byte) :
    exec (.uplinkWord ch (lineWord b4 false)) (s.holding ch [b0, b1, b2, b3]) =
      exec (.uplinkFrame ch b0 b1 b2 b3 b4) s := by
  rw [exec_fifthWord (s := s.holding ch _) hm (lineMarker_lineWord b4 false) (holding_frame s ch _) rfl,
    lineData_lineWord, lineFaulty_lineWord, exec_uplinkFrame hm]
  unfold State.closeFrame State.holding
  rw [setFraming_setFraming]
  rfl

/-- The five words of a sound frame are that frame (R31 to R34). -/
theorem runs_frame {s : State} (hm : s.mode = .running) {ch : Chan} (hf : (s.link ch).rx.frame = none)
    (b0 b1 b2 b3 b4 : Byte) (t : State) :
    s.Runs [.uplinkWord ch (lineWord b0 true), .uplinkWord ch (lineWord b1 false),
        .uplinkWord ch (lineWord b2 false), .uplinkWord ch (lineWord b3 false),
        .uplinkWord ch (lineWord b4 false)] t ↔
      exec (.uplinkFrame ch b0 b1 b2 b3 b4) s = .next t := by
  have hfirst : exec (.uplinkWord ch (lineWord b0 true)) s = .next (s.holding ch [b0]) := by
    rw [exec_markerWord_closed hm (lineMarker_lineWord b0 true) hf, lineData_lineWord, lineFaulty_lineWord]
    rfl
  rw [runs_cons hfirst, runs_cons (exec_nextWord hm b1 (by simp)), runs_cons (exec_nextWord hm b2 (by simp)),
    runs_cons (exec_nextWord hm b3 (by simp)), ← exec_lastWord hm]
  exact ⟨fun ⟨u, hu, ht⟩ => ht ▸ hu, fun ht => ⟨t, ht, rfl⟩⟩

/-- Settles O34, word by word. -/
theorem uplinkWordsMakeFrames : Obligations.UplinkWordsMakeFrames := fun _ _ hm =>
  ⟨fun _ hw hf => exec_markerWord_open hm hw hf,
    fun hf => ⟨fun _ hw => exec_markerWord_closed hm hw hf, fun _ hw => exec_strayWord hm hw hf, runs_frame hm hf⟩,
    fun _ _ hf hw => ⟨fun hl => exec_heldWord hm hw hf hl, fun hl hc => exec_condemnedWord hm hw hf hl hc⟩⟩

end Sys2Proof.Machine
end

section
/-! Proofs: valid uplink frames, and the fault codes they report (R34, R36 to R41, R57, R59). -/

namespace Sys2Proof.Machine

/-! ## A fault code reported and taken (R40, R57, R59) -/

theorem provisionalCode_some {s : State} {cause : FaultCause} {code : Eligible}
    (h : s.provisionalCode cause = some code) : s.params.tCC ≠ 0 ∧ cause.eligible = some code := by
  unfold State.provisionalCode at h
  split at h
  · cases h
  · next hne => exact ⟨hne, h⟩

/-- With no group of its code and every open fault of its code in its own phase, a fault is not judged common
cause, its own window opened (R64, R65). -/
theorem not_judges {i : Intake} {code : Eligible} {p : Pos} (stamp : Stamp)
    (hgroups : ∀ g ∈ i.groups, g.code ≠ code)
    (hphase : ∀ q ∈ i.provisionals, q.code = code → phaseOf q.pos = phaseOf p) :
    Intake.judges { i with
      provisionals := i.provisionals ++ [{ pos := p, code := code, stamp := stamp }] } code p = false := by
  unfold Intake.judges Intake.groupOf Intake.openElsewhere
  rw [Bool.or_eq_false_iff, Option.isSome_eq_false_iff, Option.isNone_iff_eq_none]
  refine ⟨List.find?_eq_none.mpr fun g hg hc => hgroups g hg (beq_iff_eq.mp hc),
    List.any_eq_false.mpr fun q hq hboth => ?_⟩
  obtain ⟨hcode, hne⟩ := Bool.and_eq_true_iff.mp hboth
  refine bne_iff_ne.mp hne ?_
  rcases List.mem_append.mp hq with hold | hnew
  · exact hphase q hold (beq_iff_eq.mp hcode)
  · rw [List.mem_singleton.mp hnew]

/-- A fault that forms no group and joins none is taken by steps 1 to 4 of R59 and the fault notice (R60, R64,
R65). -/
theorem takeFault_unjudged {s : State} {p : Pos} {cause : FaultCause}
    (h : s.params.tCC = 0 ∨ ((∀ g ∈ s.intake.groups, cause.eligible ≠ some g.code) ∧
      ∀ q ∈ s.intake.provisionals, cause.eligible = some q.code → phaseOf q.pos = phaseOf p)) :
    ∃ w, s.TakesFault w p cause ∧ w.Notified (s.takeFault p cause) := by
  have htakes := applyFault_takes s p cause
  refine ⟨_, htakes, ?_⟩
  unfold State.takeFault
  dsimp only
  generalize s.applyFault p cause s.time = w at htakes ⊢
  split
  · next code hcode =>
    obtain ⟨htCC, hel⟩ := provisionalCode_some hcode
    obtain ⟨hgroups, hphase⟩ := h.resolve_left htCC
    obtain ⟨-, hwindow, -⟩ := htakes
    obtain ⟨opened, hopened, hintake⟩ := hwindow ⟨(eligible_iff cause).mp (by rw [hel]; rfl), htCC⟩
    obtain rfl : code = opened := Option.some.inj (hel.symm.trans hopened)
    rw [hintake, not_judges s.time (fun g hg hc => hgroups g hg (hel.trans (congrArg some hc.symm)))
      (fun q hq hc => hphase q hq (hel.trans (congrArg some hc.symm)))]
    exact faultNotice_notified w
  · exact faultNotice_notified w

/-- A code that the record's or the engine's state shuts out is not taken (R56, R57). -/
theorem reportCode_untaken {s : State} {p : Pos} {code : CellCode}
    (h : ¬((s.record p).state.active = true ∧ s.engine.state ≠ .config ∧ s.engine.state ≠ .dormant ∧
      ¬(s.engine.state = .charging ∧ code = .dcUnder))) : s.reportCode p code = s := by
  unfold State.reportCode
  cases code.cause with
  | none => rfl
  | some cause => exact if_neg fun ⟨hactive, hengine⟩ => h ⟨hactive, (takesCode_iff _ _).mp hengine⟩

theorem reportCode_taken {s : State} {p : Pos} {code : CellCode} {cause : FaultCause}
    (hcause : code.cause = some cause)
    (h : (s.record p).state.active = true ∧ s.engine.state ≠ .config ∧ s.engine.state ≠ .dormant ∧
      ¬(s.engine.state = .charging ∧ code = .dcUnder)) : s.reportCode p code = s.takeFault p cause := by
  obtain ⟨hactive, hengine⟩ := h
  unfold State.reportCode
  rw [hcause]
  exact if_pos ⟨hactive, (takesCode_iff _ _).mpr hengine⟩

/-! ## Uplink frames (R34 to R41) -/

section
variable {s : State} {ch : Chan} {b0 b1 b2 b3 b4 : Byte} (hm : s.mode = .running)
include hm

/-- A frame whose checksum fails is a bad frame (R34). -/
theorem exec_uplinkFrame_checksum (hcrc : crc8 [b0, b1, b2, b3] ≠ b4) :
    exec (.uplinkFrame ch b0 b1 b2 b3 b4) s = exec (.badFrame ch .checksum) s := by
  rw [exec_uplinkFrame hm, exec_badFrame hm]
  exact congrArg _ (if_neg hcrc)

/-- A valid frame that repeats the sequence is a duplicate (R36). -/
theorem exec_uplinkFrame_repeated (hcrc : crc8 [b0, b1, b2, b3] = b4)
    (hseq : (s.link ch).rx.lastSeq = some (decodeUplink b0 b1 b2 b3).seq) :
    exec (.uplinkFrame ch b0 b1 b2 b3 b4) s = .next ((s.setFraming ch none).duplicateFrame ch) := by
  rw [exec_uplinkFrame hm]
  unfold State.checkFrame State.validFrame
  rw [if_pos hcrc, if_pos (by rw [setFraming_link]; exact hseq)]

/-- Any other valid frame is accepted (R37). -/
theorem exec_uplinkFrame_new (hcrc : crc8 [b0, b1, b2, b3] = b4)
    (hseq : (s.link ch).rx.lastSeq ≠ some (decodeUplink b0 b1 b2 b3).seq) :
    exec (.uplinkFrame ch b0 b1 b2 b3 b4) s =
      .next ((s.setFraming ch none).acceptFrame ch (decodeUplink b0 b1 b2 b3)) := by
  rw [exec_uplinkFrame hm]
  unfold State.checkFrame State.validFrame
  rw [if_pos hcrc, if_neg (by rw [setFraming_link]; exact hseq)]

end

/-- The receiver after a duplicate: its frame closed, and its silence timer restarted where it is LIVE (R36). -/
def Receiver.repeated (r : Receiver) (now : Stamp) : Receiver :=
  { r with frame := none, silence := if r.link = .live then some now else r.silence }

/-- A duplicate changes its receiver alone (R36), and on an unassigned channel sets STRAY_FRAME (R41). -/
theorem duplicateFrame_eq (s : State) (ch : Chan) :
    (s.setFraming ch none).duplicateFrame ch =
      let t := s.setRx ch ((s.link ch).rx.repeated s.time)
      if (s.channelPos ch).isSome then t else t.setFlag .strayFrame := by
  unfold State.duplicateFrame Receiver.repeated
  have hpos : (s.setFraming ch none).channelPos ch = s.channelPos ch := State.channelPos_congr rfl ch
  have htime : (s.setFraming ch none).time = s.time := rfl
  simp only [hpos, htime, setFraming_link]
  by_cases hlive : (s.link ch).rx.link = .live
  · simp only [if_pos hlive]
    unfold State.setFraming
    rw [setRx_setRx]
  · simp only [if_neg hlive]
    rfl

theorem State.Accepts.record_state {s v : State} {ch : Chan} {p : Pos} {f : UplinkFields}
    (h : s.Accepts v ch (some p) f) : (v.record p).state = (s.record p).state := by
  obtain ⟨-, -, -, -, -, -, hrecord, -⟩ := h
  obtain ⟨run, -, -, hp⟩ := hrecord p rfl
  rw [hp]

theorem State.Accepts.frame {s v : State} {ch : Chan} {assigned : Option Pos} {f : UplinkFields}
    (h : s.Accepts v ch assigned f) : s.ChangesOnly v [.links, .roster] := by
  obtain ⟨-, -, -, -, -, -, -, -, hframe⟩ := h
  exact hframe

/-- What shuts a code out is not touched by the acceptance of its frame. -/
theorem State.Accepts.taken_iff {s v : State} {ch : Chan} {p : Pos} {f : UplinkFields}
    (h : s.Accepts v ch (some p) f) :
    ((v.record p).state.active = true ∧ v.engine.state ≠ .config ∧ v.engine.state ≠ .dormant ∧
      ¬(v.engine.state = .charging ∧ f.code = .dcUnder)) ↔
    ((s.record p).state.active = true ∧ s.engine.state ≠ .config ∧ s.engine.state ≠ .dormant ∧
      ¬(s.engine.state = .charging ∧ f.code = .dcUnder)) := by
  rw [h.record_state, h.frame .engine (by decide)]

/-- The publisher's test is made of a clean frame that raises the run of a verified record (R162). -/
theorem tested_iff (s : State) (p : Pos) (f : UplinkFields) :
    (f.clean s.params ∧ (s.record p).cleanRun.getD 0 < 31 ∧ s.verifies p) ↔
      (s.CleanFrame f ∧ (s.record p).cleanRun.getD 0 < 31 ∧
        ∃ ps, s.publisher.verified = some ps ∧ p ∈ ps) := by
  rw [clean_iff]
  unfold State.verifies
  cases s.publisher.verified <;> simp

/-- Settles O30: a duplicate by `duplicateFrame_eq`, an accepted frame by `frameWritten_accepts`. -/
theorem uplinkFramesUpdateLinkAndRecord : Obligations.UplinkFramesUpdateLinkAndRecord := by
  intro ch b0 b1 b2 b3 b4 s hm c f rx
  refine ⟨exec_uplinkFrame_checksum hm, fun hcrc hseq => ⟨_, exec_uplinkFrame_repeated hm hcrc hseq, ?_⟩,
    fun hcrc hseq => ?_⟩
  · rw [duplicateFrame_eq]
    dsimp only
    have hlink := setRx_link s ch ((s.link ch).rx.repeated s.time)
    have hother := setRx_other s ch ((s.link ch).rx.repeated s.time)
    have hframe := setRx_frame s ch ((s.link ch).rx.repeated s.time)
    cases hpos : s.channelPos ch with
    | none =>
      have hun : s.Unassigned ch := State.channelPos_none hpos
      exact ⟨hlink, hother, fun _ => (setFlag_raises _ _).before rfl,
        fun h => absurd hun h, (hframe.more (by decide)).trans ((setFlag_frame _ _).more (by decide))⟩
    | some p =>
      have hass : ¬s.Unassigned ch := fun h => h p (State.channelPos_some hpos)
      exact ⟨hlink, hother, fun h => absurd h hass, fun _ => .none rfl,
        hframe.more (by decide)⟩
  · have hexec := exec_uplinkFrame_new hm hcrc hseq
    refine ⟨fun hun => ?_, fun p hp => ?_⟩
    · rw [acceptFrame_unassigned s ch _ (channelPos_unassigned hun)] at hexec
      exact ⟨_, _, hexec, frameWritten_accepts s ch none f, setFlag_raises _ _, setFlag_frame _ _⟩
    · have haccepts := frameWritten_accepts s ch (some p) f
      rw [acceptFrame_assigned s ch _ p (channelPos_assigned hp)] at hexec
      refine ⟨fun hcode htested => ?_, fun hcode htested => ?_, fun hcode htaken => ?_⟩
      · rw [if_pos hcode, if_pos ((tested_iff s p f).mpr htested)] at hexec
        exact ⟨_, _, hexec, haccepts, passTest_tests _⟩
      · rw [if_pos hcode, if_neg (mt (tested_iff s p f).mp htested)] at hexec
        exact ⟨_, hexec, haccepts⟩
      · rw [if_neg hcode, reportCode_untaken (mt haccepts.taken_iff.mp htaken)] at hexec
        exact ⟨_, hexec, haccepts⟩

/-- Settles O31: the frame is written, and its fault is taken without a judgment. -/
theorem faultCodesAreTaken : Obligations.FaultCodesAreTaken := by
  intro ch b0 b1 b2 b3 b4 p cause s f hm hcrc hseq hp hactive hcause hconfig hdormant hunder hjudge
  have haccepts := frameWritten_accepts s ch (some p) f
  have hcode : f.code ≠ .none := fun h => by rw [h] at hcause; cases hcause
  have hexec := exec_uplinkFrame_new hm hcrc hseq
  rw [acceptFrame_assigned s ch _ p (channelPos_assigned hp), if_neg hcode,
    reportCode_taken hcause (haccepts.taken_iff.mpr ⟨hactive, hconfig, hdormant, hunder⟩)] at hexec
  rw [← haccepts.frame .params (by decide), ← haccepts.frame .intake (by decide)] at hjudge
  obtain ⟨w, htakes, hnotified⟩ := takeFault_unjudged hjudge
  exact ⟨_, w, _, hexec, haccepts, htakes, hnotified⟩

end Sys2Proof.Machine
end

section
/-! Proofs: bad frames, link reports and silence (R39, R42 to R44). -/

namespace Sys2Proof.Machine

/-! ## A link report (R39, R56, R57) -/

/-- The receiver of a channel rewritten and the run of a record set to 0. -/
theorem setRx_clearRun_spec (s : State) (ch : Chan) (r : Receiver) (p : Pos) :
    ((s.setRx ch r).clearRun p).link ch = { s.link ch with rx := r } ∧
    s.OtherLinks ((s.setRx ch r).clearRun p) ch ∧
    ((s.setRx ch r).clearRun p).record p = { s.record p with cleanRun := some 0 } ∧
    s.OtherRecords ((s.setRx ch r).clearRun p) p ∧
    s.ChangesOnly ((s.setRx ch r).clearRun p) [.links, .roster] := by
  obtain ⟨hrecord, hothers, hframe⟩ := clearRun_clears (s.setRx ch r) p
  have hlinks (c : Chan) : ((s.setRx ch r).clearRun p).link c = (s.setRx ch r).link c :=
    State.link_congr (hframe .links (by decide)) c
  simp only [State.setRx_record] at hrecord
  exact ⟨(hlinks ch).trans (setRx_link s ch r), fun c hc => (hlinks c).trans (setRx_other s ch r c hc), hrecord,
    fun q hq => (hothers q hq).trans (State.setRx_record s ch r q),
    ((setRx_frame s ch r).more (by decide)).trans (hframe.more (by decide))⟩

/-- What shuts a link report out is not touched by the receiver and the run. -/
theorem setRx_clearRun_taken (s : State) (ch : Chan) (r : Receiver) (p : Pos) :
    ((((s.setRx ch r).clearRun p).record p).state.active = true ∧
      ((s.setRx ch r).clearRun p).engine.state ≠ .config ∧ ((s.setRx ch r).clearRun p).engine.state ≠ .dormant ∧
      ((s.setRx ch r).clearRun p).engine.state ≠ .charging) ↔
    ((s.record p).state.active = true ∧ s.engine.state ≠ .config ∧ s.engine.state ≠ .dormant ∧
      s.engine.state ≠ .charging) := by
  obtain ⟨-, -, hrecord, -, hframe⟩ := setRx_clearRun_spec s ch r p
  rw [hrecord, hframe .engine (by decide)]

/-! ## Bad frames (R42, R43) -/

/-- The receiver after a bad frame: 4 more on the score, up to 63 (R42). -/
def Receiver.badCounted (r : Receiver) (latch : Bool) (frame : Option OpenFrame) : Receiver :=
  { r with score := min 63 (r.score + 4), degraded := latch, frame := frame }

/-- The frame that the word of a bad frame opens: an interrupting marker word's (R32). -/
def frameAfterBad : BadKind → Option OpenFrame
  | .interrupted w => some { words := [lineData w], condemned := lineFaulty w }
  | .stray _ => none
  | .condemned => none
  | .checksum => none

/-- A bad frame on an unassigned channel is counted (R42). -/
theorem badFrame_unassigned {s : State} {ch : Chan} (h : s.channelPos ch = none) :
    (s.setFraming ch none).badFrame ch =
      s.setRx ch ((s.link ch).rx.badCounted (s.link ch).rx.degraded none) := by
  have hpos : (s.setFraming ch none).channelPos ch = none := (State.channelPos_congr rfl ch).trans h
  unfold State.badFrame
  simp only [hpos, setFraming_link]
  exact setRx_setRx _ _ _ _

/-- A bad frame on an assigned channel is counted, and where it crosses 32 it sets the latch and is reported
(R39, R42, R43). -/
theorem badFrame_assigned {s : State} {ch : Chan} {p : Pos} (h : s.channelPos ch = some p) :
    (s.setFraming ch none).badFrame ch =
      if (s.link ch).rx.crosses then
        ((s.setRx ch ((s.link ch).rx.badCounted true none)).clearRun p).reportLink p .linkDegraded
      else (s.setRx ch ((s.link ch).rx.badCounted (s.link ch).rx.degraded none)).clearRun p := by
  have hpos : (s.setFraming ch none).channelPos ch = some p := (State.channelPos_congr rfl ch).trans h
  have hset (r : Receiver) : (s.setFraming ch none).setRx ch r = s.setRx ch r := setRx_setRx _ _ _ _
  unfold State.badFrame
  simp only [hpos, setFraming_link, hset]
  rfl

/-- After a bad frame the framer stands at what its kind opens. -/
theorem framingAfterBad_eq {s : State} {ch : Chan} (kind : BadKind) (h : (s.link ch).rx.frame = none) :
    s.framingAfterBad ch kind = s.setFraming ch (frameAfterBad kind) := by
  cases kind with
  | interrupted w => rfl
  | stray w => exact (setFraming_same h).symm
  | condemned => exact (setFraming_same h).symm
  | checksum => exact (setFraming_same h).symm

/-- Where the bad frame is no report taken, it counts and sets the run of its record to 0. -/
theorem badFrame_quiet {s : State} {ch : Chan} {p : Pos} (h : s.channelPos ch = some p)
    (hn : ¬((s.link ch).rx.crosses = true ∧ (s.record p).state.active = true ∧ s.engine.state ≠ .config ∧
      s.engine.state ≠ .dormant ∧ s.engine.state ≠ .charging)) :
    (s.setFraming ch none).badFrame ch =
      (s.setRx ch ((s.link ch).rx.badCounted
        (if (s.link ch).rx.crosses then true else (s.link ch).rx.degraded) none)).clearRun p := by
  rw [badFrame_assigned h]
  by_cases hc : (s.link ch).rx.crosses = true
  · rw [if_pos hc, if_pos hc]
    exact reportLink_untaken fun ht => hn ⟨hc, (setRx_clearRun_taken s ch _ p).mp ht⟩
  · rw [if_neg hc, if_neg hc]

/-- Settles O33: the count by `badFrame_unassigned` and `badFrame_assigned`, the report by `reportLink_taken`. -/
theorem badFramesCountAndDegrade : Obligations.BadFramesCountAndDegrade := by
  intro ch kind s hm rx next crosses counted
  have hexec {u : State} (hu : (s.setFraming ch none).badFrame ch = u) (hn : (u.link ch).rx.frame = none) :
      exec (.badFrame ch kind) s = .next (u.setFraming ch (frameAfterBad kind)) := by
    rw [exec_badFrame hm, hu, framingAfterBad_eq kind hn]
  have hopens : frameAfterBad kind = next := by cases kind <;> rfl
  have hcrosses : (s.link ch).rx.crosses = true ↔ crosses := crosses_iff _
  refine ⟨fun hun => ?_, fun p hp => ⟨fun hn => ?_, fun ht => ?_⟩⟩
  · have hbad := badFrame_unassigned (channelPos_unassigned hun)
    have hlink := setRx_link s ch ((s.link ch).rx.badCounted (s.link ch).rx.degraded none)
    have hother := setRx_other s ch ((s.link ch).rx.badCounted (s.link ch).rx.degraded none)
    have hframe := setRx_frame s ch ((s.link ch).rx.badCounted (s.link ch).rx.degraded none)
    generalize s.setRx ch _ = u at hbad hlink hother hframe
    refine ⟨_, hexec hbad (by rw [hlink]; rfl), ?_, fun c hc => (setRx_other u ch _ c hc).trans (hother c hc),
      hframe.trans (setRx_frame u ch _)⟩
    rw [setFraming_link, hlink, hopens]
    rfl
  · have hbad := badFrame_quiet (channelPos_assigned hp) (mt (And.imp_left hcrosses.mp) hn)
    obtain ⟨hlink, hother, hrecord, hothers, hframe⟩ := setRx_clearRun_spec s ch
      ((s.link ch).rx.badCounted (if (s.link ch).rx.crosses then true else (s.link ch).rx.degraded) none) p
    generalize (s.setRx ch _).clearRun p = u at hbad hlink hother hrecord hothers hframe
    refine ⟨_, hexec hbad (by rw [hlink]; rfl), fun hc => ?_, fun hc => ?_, hrecord, hothers,
      fun c hc => (setRx_other u ch _ c hc).trans (hother c hc), hframe.trans ((setRx_frame u ch _).more (by decide))⟩
    · rw [setFraming_link, hlink, hopens, if_pos (hcrosses.mpr hc)]
      rfl
    · rw [setFraming_link, hlink, hopens, if_neg (mt hcrosses.mp hc)]
      rfl
  · obtain ⟨hc, htaken⟩ := ht
    have hbad := badFrame_assigned (channelPos_assigned hp)
    rw [if_pos (hcrosses.mpr hc)] at hbad
    obtain ⟨w, htakes, hnotified, hlinks⟩ :=
      reportLink_taken (.inr rfl) ((setRx_clearRun_taken s ch ((s.link ch).rx.badCounted true none) p).mpr htaken)
    obtain ⟨hlink, hother, hrecord, hothers, hframe⟩ :=
      setRx_clearRun_spec s ch ((s.link ch).rx.badCounted true none) p
    generalize (s.setRx ch _).clearRun p = v at *
    have hreported : (v.reportLink p .linkDegraded).link ch = v.link ch := State.link_congr hlinks ch
    refine ⟨v, w, _, _, hexec hbad (by rw [hreported, hlink]; rfl), hlink, hrecord, hothers, hother, hframe, htakes,
      hnotified, ?_, setRx_other _ ch _, setRx_frame _ ch _⟩
    rw [setFraming_link, hreported, hlink, hopens]
    rfl

/-! ## Silence (R44) -/

/-- A receiver gone SILENT: its timer and its open frame dropped (R44). -/
def Receiver.silenced (r : Receiver) : Receiver := { r with link := .silent, silence := none, frame := none }

theorem silenceDetected_unassigned {s : State} {ch : Chan} (h : s.channelPos ch = none) :
    s.silenceDetected ch = s.setRx ch (s.link ch).rx.silenced := by
  unfold State.silenceDetected
  simp only [h]
  rfl

theorem silenceDetected_assigned {s : State} {ch : Chan} {p : Pos} (h : s.channelPos ch = some p) :
    s.silenceDetected ch = ((s.setRx ch (s.link ch).rx.silenced).clearRun p).reportLink p .linkLost := by
  unfold State.silenceDetected
  simp only [h]
  rfl

/-- Settles O35: the receiver and the run as they are written, the report by `reportLink_taken`. -/
theorem silenceIsDetected : Obligations.SilenceIsDetected := by
  intro ch since s hm hlive hsince hrun silent
  have hdue : s.silenceDue ch = true := (silenceDue_iff s ch).mpr ⟨hlive, since, hsince, hrun⟩
  refine ⟨fun hun => ?_, fun p hp => ?_⟩
  · exact ⟨_, exec_due rfl hm hdue (silenceDetected_unassigned (channelPos_unassigned hun)), setRx_link s ch _,
      setRx_other s ch _, setRx_frame s ch _⟩
  · have htaken_iff := setRx_clearRun_taken s ch (s.link ch).rx.silenced p
    obtain ⟨hlink, hother, hrecord, hothers, hframe⟩ := setRx_clearRun_spec s ch (s.link ch).rx.silenced p
    refine ⟨_, _, exec_due rfl hm hdue (silenceDetected_assigned (channelPos_assigned hp)), hlink, hother, hrecord,
      hothers, hframe, fun hn => reportLink_untaken (mt htaken_iff.mp hn), fun ht => ?_⟩
    obtain ⟨w, htakes, hnotified, -⟩ := reportLink_taken (.inl rfl) (htaken_iff.mpr ht)
    exact ⟨w, htakes, hnotified⟩

end Sys2Proof.Machine
end

section
/-! Proofs: the downlink boundary and the words on DTX (R47, R48, R201). -/

namespace Sys2Proof.Machine

/-! ## The downlink (R47, R48, R201) -/

/-- The fields of a downlink byte: sequence, gate permit and fault reset, the upper two bits low (R47, R201). -/
theorem downlinkByte_bits (permit faultReset : Bool) (seq : BitVec 4) :
    (downlinkByte permit faultReset seq).extractLsb' 0 4 = seq ∧
    (downlinkByte permit faultReset seq).getLsbD 4 = permit ∧
    (downlinkByte permit faultReset seq).getLsbD 5 = faultReset ∧
    (downlinkByte permit faultReset seq).getLsbD 6 = false ∧
    (downlinkByte permit faultReset seq).getLsbD 7 = false := by
  revert permit faultReset seq
  decide

/-- A run of words is sent word by word, and the line is high after the last (R201). -/
theorem lineLevel_cons {n : Nat} (w : BitVec n) (ws : List (BitVec n)) :
    (∀ k < n, lineLevel (w :: ws) k = w.getLsbD k) ∧ ∀ k, lineLevel (w :: ws) (n + k) = lineLevel ws k := by
  have hlen : ((List.range n).map fun t => w.getLsbD t).length = n := by simp
  have hbits : wordsBits (w :: ws) = ((List.range n).map fun t => w.getLsbD t) ++ wordsBits ws := rfl
  refine ⟨fun k hk => ?_, fun k => ?_⟩ <;> unfold lineLevel <;> rw [hbits]
  · rw [List.getD_append _ _ _ _ (by omega)]
    simp [hk]
  · rw [List.getD_append_right _ _ _ _ (by omega), hlen, Nat.add_sub_cancel_left]

theorem lineLevel_nil {n : Nat} (k : Nat) : lineLevel ([] : List (BitVec n)) k = true := rfl

/-- The line of an idle channel stays high (R47). -/
theorem dtx_idle {s : State} {ch : Chan} (h : (s.link ch).tx.sent = none) (k : Nat) : s.dtx ch k = true := by
  unfold State.dtx State.downlinkFrame
  rw [h]
  rfl

/-- The two words of a frame back to back, then the line high (R47, R201). -/
theorem dtx_sent {s : State} {ch : Chan} {data : Byte} (h : (s.link ch).tx.sent = some data) :
    (∀ k < 12, s.dtx ch k = (lineWord data true).getLsbD k ∧
      s.dtx ch (12 + k) = (lineWord (crc8 [data]) false).getLsbD k) ∧
    ∀ k, 24 ≤ k → s.dtx ch k = true := by
  have hdtx (k : Nat) : s.dtx ch k = lineLevel [lineWord data true, lineWord (crc8 [data]) false] k := by
    unfold State.dtx State.downlinkFrame
    rw [h]
    rfl
  obtain ⟨hfirst, hrest⟩ := lineLevel_cons (lineWord data true) [lineWord (crc8 [data]) false]
  obtain ⟨hsecond, hafter⟩ := lineLevel_cons (lineWord (crc8 [data]) false) []
  refine ⟨fun k hk => ⟨(hdtx k).trans (hfirst k hk), (hdtx _).trans ((hrest k).trans (hsecond k hk))⟩,
    fun k hk => ?_⟩
  obtain ⟨j, rfl⟩ := Nat.exists_eq_add_of_le hk
  rw [hdtx, Nat.add_assoc 12 12 j, hrest, hafter, lineLevel_nil]

theorem gatePermit_iff (s : State) (p : Pos) : s.gatePermit p = true ↔
    (s.record p).offset.isSome ∧ (s.engine.state = .proving ∨ s.engine.state = .running) := by
  simp [State.gatePermit]

/-- A boundary rewrites every transmitter and no receiver (R47). -/
theorem downlinkBoundary_link (s : State) (ch : Chan) :
    s.downlinkBoundary.link ch = { s.link ch with tx := s.txAtBoundary ch } := by
  simp [State.downlinkBoundary, State.link, State.setLinks, State.setDownlinkSince]

theorem setDownlinkSince_frame (s : State) (t : Stamp) : s.ChangesOnly (s.setDownlinkSince t) [.downlinkSince] := by
  intro x hx
  cases x with
  | downlinkSince => exact absurd List.mem_cons_self hx
  | _ => rfl

theorem downlinkBoundary_frame (s : State) : s.ChangesOnly s.downlinkBoundary [.links, .downlinkSince] :=
  ((setLinks_frame s _).more (by decide)).trans ((setDownlinkSince_frame _ _).more (by decide))

theorem txAtBoundary_unassigned {s : State} {ch : Chan} (h : s.Unassigned ch) :
    s.txAtBoundary ch = { (s.link ch).tx with sent := none } := by
  unfold State.txAtBoundary
  rw [channelPos_unassigned h]

theorem txAtBoundary_assigned {s : State} {ch : Chan} {p : Pos} (h : s.Assigned ch p) :
    s.txAtBoundary ch = { (s.link ch).tx with
      sent := some (downlinkByte (s.gatePermit p) (s.link ch).tx.faultReset (s.link ch).tx.seq)
      seq := (s.link ch).tx.seq + 1 } := by
  unfold State.txAtBoundary
  rw [channelPos_assigned h]

theorem txAtBoundary_faultReset (s : State) (ch : Chan) :
    (s.txAtBoundary ch).faultReset = (s.link ch).tx.faultReset := by
  unfold State.txAtBoundary
  cases s.channelPos ch <;> rfl

/-- Settles O36: the transmitters by `txAtBoundary`, their bits by `downlinkByte_bits`, the line by `dtx_sent`. -/
theorem downlinkBoundarySendsFrames : Obligations.DownlinkBoundarySendsFrames := by
  intro s hm hrun
  refine ⟨_, exec_due rfl hm ((boundaryDue_iff s).mpr hrun) rfl, rfl, downlinkBoundary_frame s, fun ch => ?_⟩
  have hlink := downlinkBoundary_link s ch
  generalize s.downlinkBoundary = t at hlink
  refine ⟨by rw [hlink], by rw [hlink]; exact txAtBoundary_faultReset s ch, fun hun => ?_, fun p hp => ?_⟩
  · rw [txAtBoundary_unassigned hun] at hlink
    have hsent : (t.link ch).tx.sent = none := by rw [hlink]
    exact ⟨hsent, by rw [hlink], dtx_idle hsent⟩
  · rw [txAtBoundary_assigned hp] at hlink
    obtain ⟨hseq, hpermit, hreset, hsix, hseven⟩ :=
      downlinkByte_bits (s.gatePermit p) (s.link ch).tx.faultReset (s.link ch).tx.seq
    generalize downlinkByte _ _ _ = data at *
    have hsent : (t.link ch).tx.sent = some data := by rw [hlink]
    obtain ⟨hwords, hhigh⟩ := dtx_sent hsent
    exact ⟨data, hsent, by rw [hlink], hseq, by rw [hpermit, gatePermit_iff], hreset, hsix, hseven, hwords, hhigh⟩

end Sys2Proof.Machine
end

section
/-! Proofs: LINK_STATUS, and the silences that a lower tSIL detects (R44, R50, R193, R197). -/

namespace Sys2Proof.Machine

/-! ## LINK_STATUS (R50) -/

/-- Settles O7: the payload of LINK_STATUS is `linkPayload`, item by item. -/
theorem linkStatusReturnsTheLink : Obligations.LinkStatusReturnsTheLink := by
  intro tag s hm
  refine ⟨fun ch l assigned hl hsome hnone => performs_of hm rfl ?_ rfl, fun c hc => refuses_of hm rfl ?_⟩
  · have hpos : s.channelPos ch = assigned := by
      cases assigned with
      | none => exact channelPos_unassigned (hnone rfl)
      | some p => exact channelPos_assigned (hsome p rfl)
    unfold requestLinkStatus
    rw [chanOfByte_chanByte]
    simp only [State.reply, Reply.done, linkPayload, hl, hpos, item1_bitCode]
    simp only [item1, List.append_assoc, List.cons_append, List.nil_append]
  · unfold requestLinkStatus
    rw [chanOfByte_above hc]

/-! ## SET_PARAM of tSIL (R44, R197) -/

theorem setParams_frame (s : State) (ps : Params) : s.ChangesOnly (s.setParams ps) [.params] := by
  intro x hx
  cases x with
  | params => exact absurd List.mem_cons_self hx
  | _ => rfl

/-- From s to u silence is detected, in CONFIG, of every receiver of a list whose timer has run: it goes SILENT and
the run of its record to 0, and no other link or record changes. -/
structure State.Silences (s u : State) (l : List Chan) : Prop where
  link : ∀ ch, u.link ch =
    if ch ∈ l ∧ s.silenceDue ch = true then { s.link ch with rx := (s.link ch).rx.silenced } else s.link ch
  cleared : ∀ p ch, ch ∈ l → s.silenceDue ch = true → s.channelPos ch = some p →
    u.record p = { s.record p with cleanRun := some 0 }
  kept : ∀ p, (∀ ch ∈ l, s.silenceDue ch = true → s.channelPos ch ≠ some p) → u.record p = s.record p
  frame : s.ChangesOnly u [.links, .roster]

/-- Nothing is detected among receivers none of which is due. -/
theorem State.Silences.none {s : State} {l : List Chan} (h : ∀ ch ∈ l, ¬s.silenceDue ch = true) :
    s.Silences s l where
  link ch := (if_neg fun ⟨hl, hdue⟩ => h ch hl hdue).symm
  cleared _ ch hl hdue := absurd hdue (h ch hl)
  kept _ _ := rfl
  frame := .refl s _

/-- In CONFIG the silence of one receiver is not taken as a fault (R57). -/
theorem silenceDetected_silences {s : State} {ch : Chan} (hc : s.engine.state = .config)
    (hdue : s.silenceDue ch = true) : s.Silences (s.silenceDetected ch) [ch] := by
  have hlink {u : State} (hu : u.link ch = { s.link ch with rx := (s.link ch).rx.silenced })
      (ho : s.OtherLinks u ch) (c : Chan) : u.link c =
        if c ∈ [ch] ∧ s.silenceDue c = true then { s.link c with rx := (s.link c).rx.silenced } else s.link c := by
    by_cases hcc : c = ch
    · subst hcc
      rw [hu, if_pos ⟨List.mem_cons_self, hdue⟩]
    · rw [ho c hcc, if_neg fun h => hcc (List.mem_singleton.mp h.1)]
  cases hpos : s.channelPos ch with
  | none =>
    rw [silenceDetected_unassigned hpos]
    refine ⟨hlink (setRx_link s ch _) (setRx_other s ch _), fun p c hl _ hp => ?_,
      fun p _ => State.setRx_record s ch _ p, (setRx_frame s ch _).more (by decide)⟩
    rw [List.mem_singleton.mp hl, hpos] at hp
    cases hp
  | some q =>
    rw [silenceDetected_assigned hpos, reportLink_untaken
      (mt (setRx_clearRun_taken s ch _ q).mp fun ⟨_, hconfig, _⟩ => hconfig hc)]
    obtain ⟨hl, ho, hrecord, hothers, hframe⟩ := setRx_clearRun_spec s ch (s.link ch).rx.silenced q
    refine ⟨hlink hl ho, fun p c hl _ hp => ?_, fun p hp => hothers p fun e => ?_, hframe⟩
    · rw [List.mem_singleton.mp hl, hpos] at hp
      cases hp
      exact hrecord
    · exact hp ch List.mem_cons_self hdue (hpos.trans (congrArg some e.symm))

section
variable {s u v : State} {l l' : List Chan} (h : s.Silences u l)
include h

/-- A record keeps all but its run. -/
theorem State.Silences.record (p : Pos) :
    u.record p = s.record p ∨ u.record p = { s.record p with cleanRun := some 0 } := by
  by_cases hp : ∃ ch ∈ l, s.silenceDue ch = true ∧ s.channelPos ch = some p
  · obtain ⟨ch, hl, hdue, hpos⟩ := hp
    exact .inr (h.cleared p ch hl hdue hpos)
  · exact .inl (h.kept p fun ch hl hdue hpos => hp ⟨ch, hl, hdue, hpos⟩)

theorem State.Silences.channelPos (ch : Chan) : u.channelPos ch = s.channelPos ch := by
  have hchannel (p : Pos) : (u.record p).channel = (s.record p).channel := by
    rcases h.record p with e | e <;> rw [e]
  unfold State.channelPos
  simp only [hchannel]

/-- What is due afterwards was due before and has not been detected. -/
theorem State.Silences.due_iff (ch : Chan) : u.silenceDue ch = true ↔ s.silenceDue ch = true ∧ ch ∉ l := by
  by_cases hd : ch ∈ l ∧ s.silenceDue ch = true
  · have hsilent : u.silenceDue ch = false := by
      unfold State.silenceDue
      rw [h.link ch, if_pos hd]
      rfl
    rw [hsilent]
    exact ⟨fun e => (Bool.noConfusion e), fun ⟨_, hl⟩ => absurd hd.1 hl⟩
  · have hsame : u.silenceDue ch = s.silenceDue ch := by
      unfold State.silenceDue
      rw [h.link ch, if_neg hd, h.frame .time (by decide), h.frame .params (by decide)]
    rw [hsame]
    exact ⟨fun e => ⟨e, fun hl => hd ⟨hl, e⟩⟩, And.left⟩

/-- Silence detected of one list and then of another is detected of both. -/
theorem State.Silences.append (h' : u.Silences v l') : s.Silences v (l ++ l') where
  link ch := by
    simp only [h'.link ch, h.due_iff ch, List.mem_append]
    rw [h.link ch]
    by_cases hdue : s.silenceDue ch = true <;> by_cases hl : ch ∈ l <;> simp [hdue, hl]
  cleared p ch hl hdue hpos := by
    have hrun {r : Record} (hr : r = s.record p ∨ r = { s.record p with cleanRun := some 0 }) :
        { r with cleanRun := some 0 } = { s.record p with cleanRun := some 0 } := by
      rcases hr with e | e <;> rw [e]
    by_cases hin : ch ∈ l
    · have hu := h.cleared p ch hin hdue hpos
      rcases h'.record p with e | e
      · rw [e, hu]
      · rw [e, hrun (.inr hu)]
    · have hl' := (List.mem_append.mp hl).resolve_left hin
      rw [h'.cleared p ch hl' ((h.due_iff ch).mpr ⟨hdue, hin⟩) ((h.channelPos ch).trans hpos), hrun (h.record p)]
  kept p hp := by
    rw [h'.kept p fun ch hl hdue => ?_, h.kept p fun ch hl => hp ch (List.mem_append_left _ hl)]
    rw [h.channelPos ch]
    exact hp ch (List.mem_append_right _ hl) ((h.due_iff ch).mp hdue).1
  frame := h.frame.trans h'.frame

end

/-- Silence is detected channel by channel. -/
theorem detect_silences (l : List Chan) {s : State} (hc : s.engine.state = .config) :
    s.Silences (l.foldl (fun t ch => if t.silenceDue ch then t.silenceDetected ch else t) s) l := by
  induction l generalizing s with
  | nil => exact .none fun _ h => absurd h List.not_mem_nil
  | cons ch l ih =>
    have hfirst : s.Silences (if s.silenceDue ch then s.silenceDetected ch else s) [ch] := by
      split
      · next hdue => exact silenceDetected_silences hc hdue
      · next hdue => exact .none fun c hcc => (List.mem_singleton.mp hcc) ▸ hdue
    exact hfirst.append (ih (by rw [hfirst.frame .engine (by decide)]; exact hc))

/-- SET_PARAM of tSIL in CONFIG stores the clamped value and detects the silences (R193, R197). -/
theorem requestSetParam_tSIL {s : State} (hc : s.engine.state = .config) (value : BitVec 32) :
    requestSetParam 17 value s =
      { reply :=
          { code := if clampTo 100 2000 value.toNat = value.toNat then .done else .clamped
            payload := bytes4 (clampTo 100 2000 value.toNat) }
        state := (s.setParams { s.params with tSIL := clampTo 100 2000 value.toNat }).detectSilences } := by
  show (if s.engine.state ≠ .config then _ else _) = _
  rw [if_neg (not_not.mpr hc)]
  rfl

/-- Settles O18: the silences are those that `detect_silences` finds under the parameter stored. -/
theorem setParamSilenceTimeDetects : Obligations.SetParamSilenceTimeDetects := by
  intro tag value s hm hc stored silenced
  have hstored : clampTo 100 2000 value.toNat = stored := by
    unfold clampTo stored
    split
    · omega
    · split <;> omega
  have hparams := setParams_frame s { s.params with tSIL := stored }
  have hrequest := requestSetParam_tSIL hc value
  rw [hstored] at hrequest
  have hsilences : (s.setParams { s.params with tSIL := stored }).Silences
      (s.setParams { s.params with tSIL := stored }).detectSilences (List.finRange 32) := detect_silences _ hc
  have hdue (ch : Chan) :
      (s.setParams { s.params with tSIL := stored }).silenceDue ch = true ↔ silenced ch := silenceDue_iff _ ch
  generalize (s.setParams { s.params with tSIL := stored }).detectSilences = u at hrequest hsilences
  refine ⟨u, performs_of hm rfl hrequest (hsilences.frame .time (by decide)), hsilences.frame .params (by decide),
    (hparams.more (by decide)).trans (hsilences.frame.more (by decide)), fun ch hch => ?_, fun ch hch => ?_,
    fun p ch hp hch => ?_, fun p hp => ?_⟩
  · exact (hsilences.link ch).trans (if_pos ⟨List.mem_finRange ch, (hdue ch).mpr hch⟩)
  · exact (hsilences.link ch).trans (if_neg fun h => hch ((hdue ch).mp h.2))
  · exact hsilences.cleared p ch (List.mem_finRange ch) ((hdue ch).mpr hch) (channelPos_assigned hp)
  · exact hsilences.kept p fun ch _ hch hpos => hp ch ((hdue ch).mp hch) (State.channelPos_some hpos)

end Sys2Proof.Machine
end

section
/-! Proofs: faults taken without a notice (R59, R61), and the two timers of VERIFYING (R162 to R164). -/

namespace Sys2Proof.Machine

/-! ## One fault that opens no window (R59) -/

/-- A record against which a fault of a cause that is not eligible is taken: its close completed where the contact
reads CLOSED, and FAULTED else (R5, R10). -/
def Record.ordinaryTaken (r : Record) (cause : FaultCause) (qLim : Nat) (now : Stamp) : Record :=
  if r.contact = .closed then
    { r with
      state := if qLim ≤ min 15 (r.tally + 1) ∨ r.probation ≠ none then .quarantined else .bypassed
      tally := min 15 (r.tally + 1), offset := none, cause := some cause, stamp := some now
      probation := none, prior := none }
  else { r with state := .faulted, offset := none, cause := some cause, stamp := some now }

/-- A record with a fault taken is no longer active (R5, R10). -/
theorem Record.ordinaryTaken_inactive (r : Record) (cause : FaultCause) (qLim : Nat) (now : Stamp) :
    (r.ordinaryTaken cause qLim now).state.active = false := by
  unfold Record.ordinaryTaken
  split
  · dsimp only
    split <;> rfl
  · rfl

theorem Entry.Joins.mem_iff {e x : Entry} {l l' : List Entry} (h : e.Joins l l') : x ∈ l' ↔ x ∈ l ∨ x = e := by
  obtain ⟨older, younger, rfl, rfl, -, -⟩ := h
  rw [List.mem_append, List.mem_cons, List.mem_append, or_left_comm, or_comm]

/-- From s to t a fault of a cause that is not eligible is taken, without a notice, against each position that is
due: FAULT_TAKEN is set if there is one, a CLOSE entry is listed where the contact does not read CLOSED, and
nothing else changes (R59). -/
structure State.TakesEach (s t : State) (cause : FaultCause) (due : Pos → Prop) : Prop where
  taken : ∀ p, due p → t.record p = (s.record p).ordinaryTaken cause s.params.qLim s.time
  kept : ∀ p, ¬due p → t.record p = s.record p
  entries : ∀ e, e ∈ t.matrix.orders ↔
    e ∈ s.matrix.orders ∨ ∃ p, due p ∧ (s.record p).contact ≠ .closed ∧ e = plainClose p s.time
  matrix : t.matrix = { s.matrix with orders := t.matrix.orders }
  raises : (∃ p, due p) → s.Raises t [.faultTaken]
  quiet : (∀ p, ¬due p) → t.port = s.port
  frame : s.ChangesOnly t [.roster, .matrix, .port]

theorem State.TakesEach.none (s : State) {cause : FaultCause} {due : Pos → Prop} (h : ∀ p, ¬due p) :
    s.TakesEach s cause due where
  taken p hp := absurd hp (h p)
  kept _ _ := rfl
  entries _ := ⟨.inl, fun he => he.resolve_right fun ⟨p, hp, _⟩ => h p hp⟩
  matrix := rfl
  raises := fun ⟨p, hp⟩ => absurd hp (h p)
  quiet _ := rfl
  frame := .refl s _

/-- Steps 1 to 4 of R59 for a cause that is not eligible. -/
theorem applyFault_takesEach (s : State) (p : Pos) {cause : FaultCause} (hcause : cause.eligible = none) :
    s.TakesEach (s.applyFault p cause s.time) cause (· = p) := by
  have hel : ¬(cause = .dcOver ∨ cause = .dcUnder ∨ cause = .overtemp) := by
    rw [← eligible_iff, hcause]
    exact Bool.false_ne_true
  obtain ⟨hintake, -, hopen, hclosed, hother, hraises, hframe⟩ := applyFault_takes s p cause
  generalize s.applyFault p cause s.time = t at *
  have hrec : t.record p = (s.record p).ordinaryTaken cause s.params.qLim s.time := by
    unfold Record.ordinaryTaken
    split
    · next hc => exact (hclosed hc).1
    · next hc =>
      obtain ⟨⟨prior, -, hprior, hr⟩, -⟩ := hopen hc
      rw [hr, hprior fun h => hel h.1]
  have hlist : (∀ e, e ∈ t.matrix.orders ↔
        e ∈ s.matrix.orders ∨ ((s.record p).contact ≠ .closed ∧ e = plainClose p s.time)) ∧
      t.matrix = { s.matrix with orders := t.matrix.orders } := by
    by_cases hc : (s.record p).contact = .closed
    · rw [(hclosed hc).2]
      exact ⟨fun e => ⟨.inl, fun h => h.resolve_right fun h => h.1 hc⟩, rfl⟩
    · obtain ⟨-, x, orders, hpos, hkind, hstamp, hrun, hoff, hhold, hjoins, hmatrix⟩ := hopen hc
      have hx : x = plainClose p s.time := by
        have hoff : x.holdOff = false := Bool.eq_false_of_not_eq_true (mt hoff.mp hel)
        have hhold : x.hold = false := Bool.eq_false_of_not_eq_true fun h => hel (hhold.mp h).1
        cases x
        exact Entry.mk.injEq .. ▸ ⟨hpos, hkind, hstamp, hoff, hrun, hhold⟩
      rw [hmatrix, ← hx]
      exact ⟨fun e => hjoins.mem_iff.trans (or_congr_right (and_iff_right hc).symm), rfl⟩
  refine ⟨fun q hq => hq ▸ hrec, fun q hq => hother q hq, fun e => (hlist.1 e).trans (or_congr_right ?_), hlist.2,
    fun _ => hraises, fun h => absurd rfl (h p), fun x hx => ?_⟩
  · exact ⟨fun h => ⟨p, rfl, h⟩, fun ⟨q, hq, h⟩ => hq ▸ h⟩
  · by_cases hi : x = .intake
    · subst hi
      exact hintake fun h => hel h.1
    · exact hframe x (by simpa [hi] using hx)

/-! ## Faults taken one after another (R61, R66) -/

section
variable {s t u : State} {cause : FaultCause} {due due' : Pos → Prop}

theorem State.TakesEach.congr (h : s.TakesEach t cause due) (hdue : ∀ p, due p ↔ due' p) :
    s.TakesEach t cause due' := by
  have : due = due' := funext fun p => propext (hdue p)
  exact this ▸ h

/-- Faults taken of two sets of positions without one in common are taken of both. -/
theorem State.TakesEach.trans (h : s.TakesEach t cause due) (h' : t.TakesEach u cause due')
    (hne : ∀ p, due p → ¬due' p) : s.TakesEach u cause fun p => due p ∨ due' p := by
  have hsame {p : Pos} (hp : due' p) : t.record p = s.record p := h.kept p fun hd => hne p hd hp
  have hparams : t.params = s.params := h.frame .params (by decide)
  have htime : t.time = s.time := h.frame .time (by decide)
  refine ⟨fun p hp => ?_, fun p hp => ?_, fun e => ?_, ?_, fun hex => ?_, fun hno => ?_, h.frame.trans h'.frame⟩
  · rcases hp with hp | hp
    · exact (h'.kept p (hne p hp)).trans (h.taken p hp)
    · rw [h'.taken p hp, hsame hp, hparams, htime]
  · rw [not_or] at hp
    exact (h'.kept p hp.2).trans (h.kept p hp.1)
  · rw [h'.entries e, h.entries e, htime, or_assoc, ← exists_or]
    refine or_congr_right (exists_congr fun p => ?_)
    rw [or_and_right]
    exact or_congr_right (and_congr_right fun hp => by rw [hsame hp])
  · rw [h'.matrix, h.matrix]
  · by_cases hfirst : ∃ p, due p
    · by_cases hsecond : ∃ p, due' p
      · exact ((h.raises hfirst).trans (h'.raises hsecond)).same fun f => by cases f <;> rfl
      · exact (h.raises hfirst).after (h'.quiet (not_exists.mp hsecond))
    · obtain ⟨p, hp⟩ := hex
      exact (h'.raises ⟨p, hp.resolve_left fun hd => hfirst ⟨p, hd⟩⟩).before (h.quiet (not_exists.mp hfirst))
  · exact (h'.quiet fun p hp => hno p (.inr hp)).trans (h.quiet fun p hp => hno p (.inl hp))

end

/-- A fault taken of each record of a list that is due when its turn comes, where none is due but an active one: a
position named twice has its fault taken once. -/
theorem foldl_takesEach {f : State → Pos → State} {cause : FaultCause} {due : Record → Prop}
    (hcause : cause.eligible = none) (hactive : ∀ r, due r → r.state.active = true)
    (htake : ∀ s p, due (s.record p) → f s p = s.applyFault p cause s.time)
    (hskip : ∀ s p, ¬due (s.record p) → f s p = s) (l : List Pos) (s : State) :
    s.TakesEach (l.foldl f s) cause fun p => p ∈ l ∧ due (s.record p) := by
  induction l generalizing s with
  | nil => exact .none s fun p hp => List.not_mem_nil hp.1
  | cons q l ih =>
    rw [List.foldl_cons]
    by_cases hq : due (s.record q)
    · have hfirst := applyFault_takesEach s q hcause
      rw [htake s q hq]
      have hgone : ¬due ((s.applyFault q cause s.time).record q) := fun hd => by
        have := hactive _ hd
        rw [hfirst.taken q rfl, Record.ordinaryTaken_inactive] at this
        cases this
      refine (hfirst.trans (ih _) fun p hp hd => hgone (hp ▸ hd.2)).congr fun p => ?_
      by_cases hp : p = q
      · subst hp
        exact ⟨fun _ => ⟨List.mem_cons_self, hq⟩, fun _ => .inl rfl⟩
      · rw [hfirst.kept p hp, List.mem_cons]
        simp only [hp, false_or]
    · rw [hskip s q hq]
      refine (ih s).congr fun p => and_congr_left fun hp => ?_
      exact ⟨List.mem_cons_of_mem q, fun h => (List.mem_cons.mp h).resolve_left fun e => hq (e ▸ hp)⟩

/-! ## The deadline of verification (R61, R162 to R164) -/

theorem cleanNeeded_eq (ps : Params) : ps.cleanNeeded = max 1 ps.kClean := by
  unfold Params.cleanNeeded
  split <;> omega

theorem mem_shortSet {s : State} {ps : List Pos} (h : s.publisher.verified = some ps) {p : Pos} :
    p ∈ s.shortSet ↔ p ∈ ps ∧ (s.record p).cleanRun.getD 0 < max 1 s.params.kClean := by
  unfold State.shortSet State.short
  rw [h, List.mem_filter, decide_eq_true_eq, cleanNeeded_eq]
  rfl

theorem verifyFails_takesEach (l : List Pos) (s : State) :
    s.TakesEach (l.foldl State.verifyFail s) .verifyFail fun p => p ∈ l ∧ (s.record p).state.active = true :=
  foldl_takesEach (due := fun r => r.state.active = true) rfl (fun _ h => h) (fun _ _ h => if_pos h)
    (fun _ _ h => if_neg h) l s

/-- Settles O51: the minimum timer tests the pass condition; at the deadline the short records' faults are those of
`verifyFails_takesEach`, and attempt accounting is made of the state that they leave. -/
theorem verificationTimersDecideThePass : Obligations.VerificationTimersDecideThePass := by
  intro s since hm hver
  refine ⟨fun hmin hsince hrun => ?_, ?_⟩
  · have hdue : s.minDue = true := (minDue_iff s).mpr ⟨hver, hmin, since, hsince, hrun⟩
    exact ⟨s.minExpiry, exec_due rfl hm hdue rfl, passTest_tests _⟩
  · intro ps hps hsince hrun short hactive
    have hdue : s.verDue = true := (verDue_iff s).mpr ⟨hver, since, hsince, hrun⟩
    refine ⟨s.verExpiry, exec_due rfl hm hdue rfl, fun hnone => ?_, fun hsome => ?_⟩
    · have hempty : s.shortSet.isEmpty = true :=
        List.isEmpty_iff.mpr (List.eq_nil_iff_forall_not_mem.mpr fun p hp => hnone p ((mem_shortSet hps).mp hp))
      unfold State.verExpiry
      rw [if_pos hempty]
      exact verificationPassed_passes s (by rw [hver]; decide)
    · obtain ⟨p, hp⟩ := hsome
      have hempty : ¬s.shortSet.isEmpty = true := fun he =>
        List.ne_nil_of_mem ((mem_shortSet hps).mpr hp) (List.isEmpty_iff.mp he)
      have hfails : s.TakesEach (s.shortSet.foldl State.verifyFail s) .verifyFail short :=
        (verifyFails_takesEach s.shortSet s).congr fun q => by
          rw [mem_shortSet hps]
          exact and_iff_left_of_imp (hactive q)
      unfold State.verExpiry
      rw [if_neg hempty]
      generalize s.shortSet.foldl State.verifyFail s = u at hfails
      have hstate : u.engine.state = .verifying := by rw [hfails.frame .engine (by decide), hver]
      exact ⟨u, hfails.kept, fun q hq hc => (hfails.taken q hq).trans (if_neg hc),
        fun q hq hc => (hfails.taken q hq).trans (if_pos hc), hfails.entries, hfails.matrix, hfails.raises ⟨p, hp⟩,
        hfails.frame,
        accounting_accounts u .endedByVerify (by rw [hstate]; decide) (by rw [hstate]; decide)⟩

end Sys2Proof.Machine
end

section
/-! Proofs: common-cause judgment, from the fault that joins or forms a group to the restoration of its members
(R64 to R67). -/

namespace Sys2Proof.Machine

/-! ## The flag that stands set (R180) -/

theorem Flag.exists_number {i : Nat} (h : i < 8) : ∃ f : Flag, f.number = i :=
  match i, h with
  | 0, _ => ⟨.faultTaken, rfl⟩
  | 1, _ => ⟨.stateChange, rfl⟩
  | 2, _ => ⟨.restarted, rfl⟩
  | 3, _ => ⟨.lockedOut, rfl⟩
  | 4, _ => ⟨.tableMiss, rfl⟩
  | 5, _ => ⟨.strayFrame, rfl⟩
  | 6, _ => ⟨.switchDone, rfl⟩
  | 7, _ => ⟨.switchFail, rfl⟩

/-- A flag raised that stands set already leaves the port as it was (R180). -/
theorem State.Raises.standing {s t : State} {f : Flag} (h : s.Raises t [f]) (hset : s.hasFlag f = true) :
    t.port = s.port := by
  obtain ⟨hflags, hport⟩ := h
  have hbyte : t.port.flags = s.port.flags := BitVec.eq_of_getLsbD_eq fun i hi => by
    obtain ⟨g, rfl⟩ := Flag.exists_number hi
    have hg : t.hasFlag g = s.hasFlag g := by
      rw [hflags g]
      by_cases hgf : g = f
      · rw [hgf, hset, Bool.true_or]
      · rw [List.contains_eq_mem, decide_eq_false (by simpa using hgf), Bool.or_false]
    exact hg
  rw [hport, hbyte]

/-! ## Restoration and lockout (R66, R67) -/

theorem Record.restorable_iff (r : Record) : r.restorable = true ↔ r.state = .faulted ∧ r.prior ≠ none := by
  unfold Record.restorable
  rw [Bool.and_eq_true, beq_iff_eq, Option.isSome_iff_ne_none]

/-- A lockout request outside DORMANT touches three parts, in LOCKOUT none of them (R113). -/
theorem lockout_only (s : State) (c : LockoutCause) (hd : s.engine.state ≠ .dormant) :
    s.ChangesOnly (s.lockout c) [.engine, .publisher, .port] := by
  by_cases hl : s.engine.state = .lockout
  · rw [lockout_locked s c hl]
    exact .refl s _
  · obtain ⟨-, -, -, hframe⟩ := lockout_locksOut s c hl hd
    exact hframe

/-- A restored record whose contact reads CLOSED has CONTACT_CLOSED taken, its close completed at once (R66). -/
def Record.closeRestored (r : Record) (qLim : Nat) (now : Stamp) : Record :=
  if r.state.active = true ∧ r.contact = .closed then r.ordinaryTaken .contactClosed qLim now else r

/-- CONTACT_CLOSED taken of each restored member whose contact reads CLOSED, FAULT_TAKEN standing set (R66): the
records alone change, for a close completed at once lists no entry. -/
theorem closeRestored_foldl (l : List Pos) {s : State} (hset : s.hasFlag .faultTaken = true) :
    let t := l.foldl State.closeRestored s
    (∀ p ∈ l, t.record p = (s.record p).closeRestored s.params.qLim s.time) ∧
    (∀ p, p ∉ l → t.record p = s.record p) ∧
    (∀ e, e ∈ t.matrix.orders ↔ e ∈ s.matrix.orders) ∧
    t.matrix = { s.matrix with orders := t.matrix.orders } ∧ t.port = s.port ∧
    s.ChangesOnly t [.roster, .matrix, .port] := by
  have h := foldl_takesEach (f := State.closeRestored) (cause := .contactClosed)
    (due := fun r => r.state.active = true ∧ r.contact = .closed) rfl (fun _ hd => hd.1) (fun _ _ hd => if_pos hd)
    (fun _ _ hd => if_neg hd) l s
  refine ⟨fun p hp => ?_, fun p hp => h.kept p fun hd => hp hd.1, fun e => ?_, h.matrix, ?_, h.frame⟩
  · unfold Record.closeRestored
    split
    · next hd => exact h.taken p ⟨hp, hd⟩
    · next hd => exact h.kept p fun hd' => hd hd'.2
  · exact (h.entries e).trans (or_iff_left fun ⟨p, hd, hc, _⟩ => hc hd.2.2)
  · by_cases hex : ∃ p, p ∈ l ∧ (s.record p).state.active = true ∧ (s.record p).contact = .closed
    · exact (h.raises hex).standing hset
    · exact h.quiet (not_exists.mp hex)

/-- The members of a group restored, the engine locked out, and CONTACT_CLOSED taken of those restored whose
contact reads CLOSED, FAULT_TAKEN standing set (R66, R67). -/
theorem restoreAll_judged (w : State) (l : List Pos) (hd : w.engine.state ≠ .dormant)
    (hset : w.hasFlag .faultTaken = true) :
    let t := w.restoreAll l
    (∀ q ∈ l, (w.record q).restorable = true →
      t.record q = (w.record q).restored.closeRestored w.params.qLim w.time) ∧
    (∀ q, q ∉ l ∨ ¬(w.record q).restorable = true → t.record q = w.record q) ∧
    (∀ e, e ∈ t.matrix.orders ↔ e ∈ w.matrix.orders ∧ ¬(e.pos ∈ l ∧ e.kind = .toClose)) ∧
    t.matrix = { w.matrix with orders := t.matrix.orders } ∧
    (w.engine.state ≠ .lockout → t.engine = w.engine.lockedOut .commonCause ∧
      t.publisher = w.publisher.stopped ∧ w.Raises t [.stateChange, .lockedOut]) ∧
    (w.engine.state = .lockout → t.engine = w.engine ∧ t.publisher = w.publisher ∧ t.port = w.port) ∧
    w.ChangesOnly t [.roster, .matrix, .engine, .publisher, .port] := by
  obtain ⟨hin, hout, hmem, hmat, hframe⟩ := restoreMembers_spec l w
  unfold State.restoreAll
  dsimp only
  generalize l.foldl State.restoreMember w = u at *
  have heng : u.engine = w.engine := hframe .engine (by decide)
  have hpub : u.publisher = w.publisher := hframe .publisher (by decide)
  have hport : u.port = w.port := hframe .port (by decide)
  have hlocks := lockout_locksOut u .commonCause
  have hlocked := lockout_locked u .commonCause
  have honly := lockout_only u .commonCause (by rwa [heng])
  rw [heng] at hlocks hlocked
  generalize u.lockout .commonCause = x at *
  have hxset : x.hasFlag .faultTaken = true := by
    have huset : u.hasFlag .faultTaken = true := (congrArg (fun b => b.flags.getLsbD 0) hport).trans hset
    by_cases hl : w.engine.state = .lockout
    · rwa [hlocked hl]
    · obtain ⟨-, -, ⟨hflags, -⟩, -⟩ := hlocks hl hd
      rw [hflags, huset, Bool.true_or]
  have hrec (q : Pos) : x.record q = u.record q := State.record_congr (honly .roster (by decide)) q
  have hqLim : x.params.qLim = w.params.qLim := by rw [honly .params (by decide), hframe .params (by decide)]
  have htime : x.time = w.time := Eq.trans (honly .time (by decide)) (hframe .time (by decide))
  have hmatrix : x.matrix = u.matrix := honly .matrix (by decide)
  obtain ⟨cin, cout, cmem, cmat, cport, cframe⟩ :=
    closeRestored_foldl (l.filter fun p => (w.record p).restorable) hxset
  generalize (l.filter fun p => (w.record p).restorable).foldl State.closeRestored x = t at *
  refine ⟨fun q hq hr => ?_, fun q hq => ?_, fun e => ?_, ?_, fun hl => ?_, fun hl => ?_, ?_⟩
  · rw [cin q (List.mem_filter.mpr ⟨hq, hr⟩), hrec, hin q hq, hqLim, htime]
  · rw [cout q fun h => hq.elim (· (List.mem_filter.mp h).1) (· (List.mem_filter.mp h).2), hrec]
    by_cases hql : q ∈ l
    · rw [hin q hql]
      have hr := mt (Record.restorable_iff _).mpr (hq.resolve_left (not_not.mpr hql))
      rw [not_and_or, not_not] at hr
      exact restored_none hr
    · exact hout q hql
  · rw [cmem e, hmatrix, hmem e]
  · rw [cmat, hmatrix, hmat]
  · obtain ⟨leng, lpub, lraises, -⟩ := hlocks hl hd
    have hteng : t.engine = x.engine := cframe .engine (by decide)
    have htpub : t.publisher = x.publisher := cframe .publisher (by decide)
    exact ⟨by rw [hteng, leng, heng], by rw [htpub, lpub, hpub], (lraises.before hport).after cport⟩
  · have hxu := hlocked hl
    rw [hxu] at cframe cport
    exact ⟨Eq.trans (cframe .engine (by decide)) heng, Eq.trans (cframe .publisher (by decide)) hpub, cport.trans hport⟩
  · exact ((hframe.more (by decide)).trans (honly.more (by decide))).trans (cframe.more (by decide))

/-! ## The order of stamps in the past (R53, R66) -/

/-- The time since an open fault's stamp (R53). -/
def Provisional.age (f : Provisional) (now : Stamp) : Nat := (now - f.stamp).toNat

/-- Of two stamps in the past of half a turn of the time base, the earlier is the one further back (R53). -/
theorem earlier_iff {a b now : Stamp} (ha : (now - a).toNat ≤ 2147483647) (hb : (now - b).toNat ≤ 2147483647) :
    earlier a b = true ↔ (now - b).toNat < (now - a).toNat := by
  unfold earlier
  rw [decide_eq_true_eq]
  bv_omega

/-- Of two open faults in that past, the one before in the order of R53 is no younger, and the one not before no
older. -/
theorem before_age {f g : Provisional} {now : Stamp} (hf : f.age now ≤ 2147483647) (hg : g.age now ≤ 2147483647) :
    (before f.stamp f.pos g.stamp g.pos = true → g.age now ≤ f.age now) ∧
    (before f.stamp f.pos g.stamp g.pos = false → f.age now ≤ g.age now) := by
  have hfg := earlier_iff hf hg
  have hgf := earlier_iff hg hf
  unfold before
  cases h : earlier f.stamp g.stamp with
  | true =>
    exact ⟨fun _ => (hfg.mp h).le, fun hno => (by simp at hno)⟩
  | false =>
    refine ⟨fun hb => ?_, fun _ => not_lt.mp fun hlt => Bool.false_ne_true (h.symm.trans (hfg.mpr hlt))⟩
    refine not_lt.mp fun hlt => ?_
    rw [hgf.mpr hlt] at hb
    cases hb

/-- A fault put in its place keeps the list in the order of R53, oldest first. -/
theorem insertProvisional_sorted {f : Provisional} {l : List Provisional} {now : Stamp}
    (hpast : ∀ x ∈ f :: l, x.age now ≤ 2147483647) (hl : l.Pairwise fun x y => y.age now ≤ x.age now) :
    (insertProvisional f l).Pairwise fun x y => y.age now ≤ x.age now := by
  induction l with
  | nil => exact List.pairwise_singleton _ f
  | cons x l ih =>
    obtain ⟨hx, hrest⟩ := List.pairwise_cons.mp hl
    have hage := before_age (hpast f List.mem_cons_self) (hpast x (List.mem_cons_of_mem f List.mem_cons_self))
    unfold insertProvisional
    split
    · next hb =>
      refine List.pairwise_cons.mpr ⟨fun y hy => ?_, hl⟩
      rcases List.mem_cons.mp hy with rfl | hy
      · exact hage.1 hb
      · exact (hx y hy).trans (hage.1 hb)
    · next hb =>
      have hsub : ∀ y ∈ f :: l, y.age now ≤ 2147483647 := fun y hy => hpast y <| by
        rcases List.mem_cons.mp hy with rfl | hy
        · exact List.mem_cons_self
        · exact List.mem_cons_of_mem f (List.mem_cons_of_mem x hy)
      refine List.pairwise_cons.mpr ⟨fun y hy => ?_, ih hsub hrest⟩
      rcases (mem_insertProvisional f y l).mp hy with rfl | hy
      · exact hage.2 (Bool.eq_false_of_not_eq_true hb)
      · exact hx y hy

/-- The open faults of a code stand oldest first, where all lie in that past (R66). -/
theorem ofCode_sorted {i : Intake} {code : Eligible} {now : Stamp}
    (hpast : ∀ x ∈ i.provisionals, x.code = code → x.age now ≤ 2147483647) :
    (i.ofCode code).Pairwise fun x y => y.age now ≤ x.age now := by
  have hfold (l : List Provisional) (h : ∀ x ∈ l, x.age now ≤ 2147483647) :
      (∀ x ∈ l.foldr insertProvisional [], x.age now ≤ 2147483647) ∧
      (l.foldr insertProvisional []).Pairwise fun x y => y.age now ≤ x.age now := by
    induction l with
    | nil => exact ⟨nofun, .nil⟩
    | cons f l ih =>
      obtain ⟨hage, hsorted⟩ := ih fun x hx => h x (List.mem_cons_of_mem f hx)
      have hall : ∀ x ∈ f :: l.foldr insertProvisional [], x.age now ≤ 2147483647 := fun x hx =>
        (List.mem_cons.mp hx).elim (fun e => e ▸ h f List.mem_cons_self) (hage x)
      exact ⟨fun x hx => hall x (List.mem_cons.mpr ((mem_insertProvisional f x _).mp hx)),
        insertProvisional_sorted hall hsorted⟩
  refine (hfold _ fun x hx => ?_).2
  obtain ⟨hx, hcode⟩ := List.mem_filter.mp hx
  exact hpast x hx (beq_iff_eq.mp hcode)

/-- The latest of the members' stamps is the present one, where one of them is of the present and the others lie in
that past (R64). -/
theorem latestStamp_ofCode {i : Intake} {code : Eligible} {f : Provisional} (hf : f ∈ i.provisionals)
    (hcode : f.code = code) (hpast : ∀ x ∈ i.provisionals, x.code = code → x.age f.stamp ≤ 2147483647)
    (fallback : Stamp) : latestStamp (i.ofCode code) fallback = f.stamp := by
  have hmem : f ∈ i.ofCode code := (mem_ofCode i code f).mpr ⟨hf, hcode⟩
  have hsorted := ofCode_sorted hpast
  unfold latestStamp
  obtain ⟨rest, last, hl⟩ := (i.ofCode code).eq_nil_or_concat.resolve_left (List.ne_nil_of_mem hmem)
  rw [hl, List.concat_eq_append] at hmem hsorted ⊢
  rw [List.getLast?_concat]
  obtain ⟨-, -, hlast⟩ := List.pairwise_append.mp hsorted
  rcases List.mem_append.mp hmem with hrest | hend
  · have hage : last.age f.stamp ≤ f.age f.stamp := hlast f hrest last (List.mem_singleton_self last)
    unfold Provisional.age at hage
    rw [BitVec.sub_self] at hage
    show last.stamp = f.stamp
    bv_omega
  · rw [List.mem_singleton.mp hend]

/-! ## The group formed or joined (R64, R65) -/

/-- The intake with the window of a provisional fault opened at its stamp (R62). -/
def Intake.opened (i : Intake) (p : Pos) (code : Eligible) (stamp : Stamp) : Intake :=
  { i with provisionals := i.provisionals ++ [{ pos := p, code := code, stamp := stamp }] }

section
variable (i : Intake) (p : Pos) (code : Eligible) (stamp : Stamp)

theorem groupOf_isSome : (i.groupOf code).isSome = true ↔ ∃ g ∈ i.groups, g.code = code := by
  unfold Intake.groupOf
  rw [List.find?_isSome]
  simp only [beq_iff_eq]

/-- A fault is judged common cause with a group of its code open, or a fault of its code in another phase (R64,
R65). -/
theorem judges_opened (h : (∃ g ∈ i.groups, g.code = code) ∨
    ∃ q ∈ i.provisionals, q.code = code ∧ phaseOf q.pos ≠ phaseOf p) :
    (i.opened p code stamp).judges code p = true := by
  unfold Intake.judges
  rw [Bool.or_eq_true]
  refine h.imp (groupOf_isSome _ code).mpr fun ⟨q, hq, hcode, hphase⟩ => ?_
  refine List.any_eq_true.mpr ⟨q, List.mem_append_left _ hq, ?_⟩
  rw [Bool.and_eq_true, beq_iff_eq, bne_iff_ne]
  exact ⟨hcode, hphase⟩

/-- The members of the group formed are the position and those of every other open fault of the code (R64). -/
theorem mem_members_opened (q : Pos) : q ∈ ((i.opened p code stamp).ofCode code).map (·.pos) ↔
    q = p ∨ ∃ x ∈ i.provisionals, x.code = code ∧ x.pos = q := by
  simp only [List.mem_map, mem_ofCode, Intake.opened, List.mem_append, List.mem_singleton]
  constructor
  · rintro ⟨x, ⟨hx | rfl, hcode⟩, rfl⟩
    · exact .inr ⟨x, hx, hcode, rfl⟩
    · exact .inl rfl
  · rintro (rfl | ⟨x, hx, hcode, rfl⟩)
    · exact ⟨_, ⟨.inr rfl, rfl⟩, rfl⟩
    · exact ⟨x, ⟨.inl hx, hcode⟩, rfl⟩

theorem form_opened_provisionals : ((i.opened p code stamp).form code stamp).provisionals =
    i.provisionals.filter fun x => x.code != code := by
  simp [Intake.form, Intake.opened]

theorem join_opened_provisionals : ((i.opened p code stamp).join code p stamp).provisionals =
    i.provisionals.filter fun x => !(x.pos == p && x.code == code) := by
  simp [Intake.join, Intake.opened]

theorem join_opened_groups : ((i.opened p code stamp).join code p stamp).groups = i.groups.map fun g =>
    if g.code = code then
      { g with members := if p ∈ g.members then g.members else g.members ++ [p], latest := stamp }
    else g := by
  simp [Intake.join, Intake.opened]

/-- The latest stamp of the group formed is that of the present fault, the others lying in the past of half a turn
of the time base (R64). -/
theorem form_opened_latest
    (hpast : ∀ x ∈ i.provisionals, x.code = code → (stamp - x.stamp).toNat ≤ 2147483647) :
    latestStamp ((i.opened p code stamp).ofCode code) stamp = stamp := by
  refine latestStamp_ofCode (f := { pos := p, code := code, stamp := stamp })
    (List.mem_append_right _ (List.mem_singleton_self _)) rfl (fun x hx hcode => ?_) stamp
  rcases List.mem_append.mp hx with hx | hx
  · exact hpast x hx hcode
  · rw [List.mem_singleton.mp hx]
    unfold Provisional.age
    rw [BitVec.sub_self]
    decide

end

/-! ## The judgment (R59, R64 to R67) -/

/-- The judgment of a fault whose window has just opened: the intake it leaves, and the positions it restores, of
which there are others than the fault's own only where a group is formed (R64, R65). -/
theorem judge_opened {w : State} {i : Intake} {p : Pos} {code : Eligible} {stamp : Stamp}
    (hw : w.intake = i.opened p code stamp) :
    let grouped := ∃ g ∈ i.groups, g.code = code
    let joining (q : Pos) : Prop := q = p ∨ (¬grouped ∧ ∃ x ∈ i.provisionals, x.code = code ∧ x.pos = q)
    ∃ (i' : Intake) (l : List Pos), w.judge code p stamp = (w.setIntake i').restoreAll l ∧
      (∀ q, q ∈ l ↔ joining q) ∧
      (¬grouped → (∃ g, i'.groups = i.groups ++ [g] ∧ g.code = code ∧ (∀ q, q ∈ g.members ↔ joining q) ∧
          ((∀ x ∈ i.provisionals, x.code = code → (stamp - x.stamp).toNat ≤ 2147483647) → g.latest = stamp)) ∧
        i'.provisionals = i.provisionals.filter fun x => x.code != code) ∧
      (grouped → i'.groups = i.groups.map (fun g =>
          if g.code = code then
            { g with members := if p ∈ g.members then g.members else g.members ++ [p], latest := stamp }
          else g) ∧
        i'.provisionals = i.provisionals.filter fun x => !(x.pos == p && x.code == code)) := by
  intro grouped joining
  have hopen : (w.intake.groupOf code).isSome = true ↔ grouped := by
    rw [hw]
    exact groupOf_isSome _ code
  unfold State.judge
  by_cases hg : grouped
  · rw [if_pos (hopen.mpr hg), hw]
    refine ⟨_, [p], rfl, fun q => ?_, fun hno => absurd hg hno,
      fun _ => ⟨join_opened_groups i p code stamp, join_opened_provisionals i p code stamp⟩⟩
    exact List.mem_singleton.trans ⟨.inl, fun h => h.resolve_right fun h => h.1 hg⟩
  · have hmembers (q : Pos) : q ∈ ((i.opened p code stamp).ofCode code).map (·.pos) ↔ joining q :=
      (mem_members_opened i p code stamp q).trans (or_congr_right (and_iff_right hg).symm)
    rw [if_neg (mt hopen.mp hg), hw]
    exact ⟨_, _, rfl, hmembers, fun _ => ⟨⟨_, rfl, rfl, hmembers, form_opened_latest i p code stamp⟩,
      form_opened_provisionals i p code stamp⟩, fun h => absurd h hg⟩

/-- A fault that joins a group or forms one is taken by steps 1 to 4 of R59, its window opened, and judged (R59). -/
theorem takeFault_judged {s : State} {p : Pos} {cause : FaultCause} {code : Eligible}
    (hel : cause.eligible = some code) (htCC : s.params.tCC ≠ 0)
    (h : (∃ g ∈ s.intake.groups, g.code = code) ∨
      ∃ q ∈ s.intake.provisionals, q.code = code ∧ phaseOf q.pos ≠ phaseOf p) :
    ∃ w, s.TakesFault w p cause ∧ w.intake = s.intake.opened p code s.time ∧
      s.takeFault p cause = w.judge code p s.time := by
  have htakes := applyFault_takes s p cause
  have hcode : s.provisionalCode cause = some code := (if_neg htCC).trans hel
  refine ⟨_, htakes, ?_⟩
  unfold State.takeFault
  dsimp only
  rw [hcode]
  generalize s.applyFault p cause s.time = w at htakes ⊢
  obtain ⟨-, hwindow, -⟩ := htakes
  obtain ⟨opened, hopened, hintake⟩ := hwindow ⟨(eligible_iff cause).mp (by rw [hel]; rfl), htCC⟩
  obtain rfl : code = opened := Option.some.inj (hel.symm.trans hopened)
  exact ⟨hintake, if_pos (by rw [hintake]; exact judges_opened s.intake p code s.time h)⟩

/-- What a restoration makes of a FAULTED record that holds a prior state (R8, R66). -/
theorem closeRestored_restored {r : Record} {prior : RecordState} (hstate : r.state = .faulted)
    (hprior : r.prior = some prior) (qLim : Nat) (now : Stamp) :
    (r.contact ≠ .closed ∨ prior.active = false →
      r.restored.closeRestored qLim now = { r with state := prior, prior := none }) ∧
    (r.contact = .closed → prior.active = true → r.restored.closeRestored qLim now = { r with
      state := if qLim ≤ min 15 (r.tally + 1) ∨ r.probation ≠ none then .quarantined else .bypassed
      tally := min 15 (r.tally + 1), offset := none, cause := some .contactClosed
      stamp := some now, probation := none, prior := none }) := by
  rw [restored_some hstate hprior]
  unfold Record.closeRestored
  refine ⟨fun h => if_neg ?_, fun hclosed hactive => ?_⟩
  · rintro ⟨hactive, hclosed⟩
    exact h.elim (· hclosed) fun hno => Bool.false_ne_true (hno.symm.trans hactive)
  · rw [if_pos ⟨hactive, hclosed⟩]
    exact if_pos hclosed

/-- Settles O32: the frame is written, its fault is taken and judged (`judge_opened`), and the members are restored
in LOCKOUT (`restoreAll_judged`). -/
theorem commonCauseRestoresAndLocksOut : Obligations.CommonCauseRestoresAndLocksOut := by
  intro ch b0 b1 b2 b3 b4 p cause code s f grouped hm hcrc hseq hp hactive hcause hel htCC hconfig hdormant hunder
    hjudged
  have haccepts := frameWritten_accepts s ch (some p) f
  have hcode : f.code ≠ .none := fun h => by rw [h] at hcause; cases hcause
  have hexec := exec_uplinkFrame_new hm hcrc hseq
  rw [acceptFrame_assigned s ch _ p (channelPos_assigned hp), if_neg hcode,
    reportCode_taken hcause (haccepts.taken_iff.mpr ⟨hactive, hconfig, hdormant, hunder⟩)] at hexec
  generalize s.frameWritten ch (some p) f = v at haccepts hexec
  have hvi : v.intake = s.intake := haccepts.frame .intake (by decide)
  have hvp : v.params = s.params := haccepts.frame .params (by decide)
  have hvt : v.time = s.time := haccepts.frame .time (by decide)
  have hve : v.engine = s.engine := haccepts.frame .engine (by decide)
  obtain ⟨w, htakes, hintake, hjudge⟩ := takeFault_judged (s := v) hel (by rwa [hvp]) (by rwa [hvi])
  rw [hvi, hvt] at hintake
  rw [hjudge, hvt] at hexec
  have ⟨_, _, _, _, _, hraises, hframe⟩ := htakes
  have hwp : w.params = s.params := Eq.trans (hframe .params (by decide)) hvp
  have hwt : w.time = s.time := Eq.trans (hframe .time (by decide)) hvt
  have hwe : w.engine = s.engine := Eq.trans (hframe .engine (by decide)) hve
  have hset : w.hasFlag .faultTaken = true := by
    rw [hraises.1]
    exact Bool.or_true _
  obtain ⟨i, l, heq, hmem, hformed, hjoined⟩ := judge_opened hintake
  have hspec := restoreAll_judged (w.setIntake i) l (by rwa [State.setIntake_engine, hwe]) hset
  rw [heq] at hexec
  refine ⟨v, w, _, hexec, haccepts, htakes, ?_⟩
  intro joining
  generalize (w.setIntake i).restoreAll l = t at hspec ⊢
  simp only [State.setIntake_record, State.setIntake_matrix, State.setIntake_engine, State.setIntake_publisher,
    State.setIntake_port, State.setIntake_params, State.setIntake_time, hmem, hwe, hwp, hwt] at hspec
  obtain ⟨hin, hout, horders, hmatrix, hlocks, hlocked, honly⟩ := hspec
  have hti : t.intake = i := honly .intake (by decide)
  rw [hti, hwe]
  refine ⟨fun q prior hq hstate hprior => ?_, fun q hq => hout q ?_, horders, hmatrix, hformed, hjoined,
    fun hl => ?_, hlocked, ((setIntake_frame w i).more (by decide)).trans (honly.more (by decide))⟩
  · have hr : (w.record q).restorable = true :=
      (Record.restorable_iff _).mpr ⟨hstate, by rw [hprior]; exact Option.some_ne_none prior⟩
    rw [hin q hq hr]
    exact closeRestored_restored hstate hprior s.params.qLim s.time
  · rw [Record.restorable_iff, not_and_or, not_not]
    exact hq
  · obtain ⟨heng, hpub, hra⟩ := hlocks hl
    exact ⟨heng, hpub, hra.before rfl⟩

end Sys2Proof.Machine
end

section
/-! Proofs: what every command does to the switch order list and the firing unit, and from it the laws that every
step keeps (R73, R75). -/

namespace Sys2Proof.Machine

/-! ## The laws where nothing is listed (R89, R188) -/

/-- The switch laws hold, with nothing listed and the unit IDLE. -/
structure State.Bare (s : State) : Prop where
  switched : s.Switched
  orders : s.matrix.orders = []
  unit : s.matrix.unit = .idle

/-- The switch laws read the mode, the roster, the engine and the matrix alone. -/
theorem State.Switched.congr {s t : State} (h : s.Switched) (hm : t.mode = s.mode) (hr : t.roster = s.roster)
    (he : t.engine = s.engine) (hx : t.matrix = s.matrix) : t.Switched := by
  have hrec := State.record_congr hr
  constructor <;> simp only [hm, he, hx, hrec]
  exacts [h.alone, h.capacity, h.closeEntry, h.openEntry, h.closePulse, h.openPulse, h.pulseAlone, h.mark, h.prior,
    h.scan, h.config, h.stopped]

/-- A part that does not run lists nothing, and its unit is IDLE. -/
theorem State.Switched.bare_stopped {s : State} (h : s.Switched) (hm : s.mode ≠ .running) : s.Bare := by
  obtain ⟨horders, hunit⟩ := h.config (h.stopped hm)
  exact ⟨h, horders, hunit⟩

theorem State.Bare.congr {s t : State} (h : s.Bare) (hm : t.mode = s.mode) (hr : t.roster = s.roster)
    (he : t.engine = s.engine) (hx : t.matrix = s.matrix) : t.Bare :=
  ⟨h.switched.congr hm hr he hx, hx ▸ h.orders, hx ▸ h.unit⟩

theorem blocksReset_bare (s : State) (m : Mode) (r : ResetRecord) : (s.blocksReset m r).Bare :=
  ⟨blocksReset_switched s m r, rfl, rfl⟩

/-! ## What a command does to the list and the unit -/

/-- A command relists the position: a CLEAR_LOCKOUT, direct or framed, with the close-failed mark set (R12). -/
def State.Relists (s : State) (c : Instr) (p : Pos) : Prop :=
  (∃ tag, Instr.carried c = .clearLockout tag) ∧ (s.record p).closeFailed = true

/-- From s a command leads to t: list and unit are carried on, or a hold-off runs out, or an entry is granted, or
the part is reset or does not run. -/
inductive State.Handles (s : State) (c : Instr) (t : State) : Prop where
  | carried (h : s.Carries (s.Relists c) t)
  | holdOffRun (p : Pos) (hs : s.Lawful) (hc : c = .holdOffExpiry p) (hd : s.holdOffDue p = true)
      (ht : t = s.holdOffExpiry p)
  | granted (hs : s.Lawful) (hc : c = .entryGrant) (hd : s.grantDue = true) (ht : t = s.entryGrant)
  | bare (h : t.Bare)

section
variable {c : Instr} {s : State}

/-- A command that leaves all that the switch laws read. -/
theorem passes_aside {t : State} (hs : s.Switched) (hm : t.mode = s.mode) (hr : t.roster = s.roster)
    (he : t.engine = s.engine) (hx : t.matrix = s.matrix) : s.Handles c t := by
  by_cases hrun : s.mode = .running
  · exact .carried (State.Kept.aside hm hr (.inl (congrArg Engine.state he)) hx ⟨hrun, hs⟩)
  · exact .bare ((hs.bare_stopped hrun).congr hm hr he hx)

theorem whileRunning_handles (hs : s.Switched) {f : State → State} (h : s.Lawful → s.Handles c (f s)) :
    s.Handles c (s.whileRunning f) := by
  by_cases hm : s.mode = .running
  · rw [whileRunning_running hm]
    exact h ⟨hm, hs⟩
  · rw [whileRunning_stopped hm]
    exact .bare (hs.bare_stopped hm)

theorem whenDue_handles (hs : s.Switched) {due : Bool} {f : State → State}
    (h : s.Lawful → due = true → s.Handles c (f s)) : s.Handles c (s.whenDue due f) := by
  refine whileRunning_handles hs fun hl => ?_
  split
  · rename_i hd
    exact h hl hd
  · exact passes_aside hs rfl rfl rfl rfl

theorem whileRunning_keeps (hs : s.Switched) {f : State → State} (h : s.Kept (s.Relists c) (f s)) :
    s.Handles c (s.whileRunning f) := whileRunning_handles hs fun hl => .carried (h hl)

theorem whenDue_keeps (hs : s.Switched) {due : Bool} {f : State → State}
    (h : due = true → s.Kept (s.Relists c) (f s)) : s.Handles c (s.whenDue due f) :=
  whenDue_handles hs fun hl hd => .carried (h hd hl)

/-- An edge settles or presents a line, and only then moves the engine (R90, R188). -/
theorem edge_handles (hs : s.Switched) {settled presented event : State → State} {l l' : Lines}
    (hset : settled s = s.setLines l) (hpre : presented s = s.setLines l')
    (h : (s.setLines l).Kept (s.Relists c) (event (s.setLines l))) : s.Handles c (s.edge settled presented event) := by
  by_cases hm : s.mode = .running
  · rw [edge_running hm, hset]
    exact .carried ((setLines_keeps s l).next h ⟨hm, hs⟩)
  · rw [edge_stopped hm, hpre]
    exact passes_aside hs rfl rfl rfl rfl

theorem request_stopped (hm : s.mode ≠ .running) (tag : Byte) (op : State → Executed) : s.request tag op = s :=
  whileRunning_stopped hm _

theorem perform_stopped (hm : s.mode ≠ .running) (i : Instr) : s.perform i = s := by
  cases i with
  | nop | lookup | findChannel | findSerial | list | linkStatus | enrol | retire | readmit | clearTally | setParam
  | getParam | start | loadShift | dropShift | readShift | loadScale | readScale | summary | clearLockout | ack
  | setMask | readCause => exact request_stopped hm _ _
  | reset => exact whileRunning_stopped hm _
  | _ => rfl

/-- Every host request but RESET, given directly. -/
theorem perform_handles (hs : s.Switched) (hr : c ≠ .reset) : s.Handles c (s.perform c) := by
  by_cases hm : s.mode = .running
  · refine .carried (perform_keeps s c hr ?_ ⟨hm, hs⟩)
    rintro ⟨tag, rfl⟩ p hp
    exact ⟨⟨tag, rfl⟩, hp⟩
  · rw [perform_stopped hm]
    exact .bare (hs.bare_stopped hm)

end

theorem requestReset_handles {c : Instr} {s : State} (hs : s.Switched) :
    s.Handles c (s.whileRunning State.requestReset) :=
  whileRunning_handles hs fun _ => .bare (blocksReset_bare _ _ _)

theorem judgeFrame_of_carried_reset {mosi : List Bool} (h : Instr.carried (.transactionEnd mosi) = .reset) :
    judgeFrame (mosiBytes mosi) = .request .reset := by
  unfold Instr.carried at h
  dsimp only at h
  split at h
  · rename_i i hi
    rw [hi, h]
  · cases h

/-- A transaction that carries RESET resets the part or changes the port alone (R184). -/
theorem transactionEnd_reset {s : State} {mosi : List Bool} (hs : s.Switched)
    (hr : Instr.carried (.transactionEnd mosi) = .reset) :
    s.Handles (.transactionEnd mosi) (s.transactionEnd mosi) := by
  unfold State.transactionEnd
  split
  · exact passes_aside hs rfl rfl rfl rfl
  · split
    · rename_i hm
      unfold State.csRise
      split
      · unfold State.served
        rw [judgeFrame_of_carried_reset hr]
        show s.Handles _ ((s.setCsN true).whileRunning State.requestReset)
        rw [whileRunning_running (s := s.setCsN true) hm]
        exact .bare (blocksReset_bare _ _ _)
      all_goals exact passes_aside hs rfl rfl rfl rfl
    all_goals exact passes_aside hs rfl rfl rfl rfl

theorem transactionEnd_handles {s : State} (hs : s.Switched) (mosi : List Bool) :
    s.Handles (.transactionEnd mosi) (s.transactionEnd mosi) := by
  by_cases hr : Instr.carried (.transactionEnd mosi) = .reset
  · exact transactionEnd_reset hs hr
  · by_cases hm : s.mode = .running
    · exact .carried (transactionEnd_keeps s mosi hr (fun ht p hp => ⟨ht, hp⟩) ⟨hm, hs⟩)
    · unfold State.transactionEnd
      split
      · exact passes_aside hs rfl rfl rfl rfl
      · split
        · rename_i hrun
          exact absurd hrun hm
        all_goals exact passes_aside hs rfl rfl rfl rfl

theorem transactionBegin_handles {s : State} (hs : s.Switched) :
    s.Handles .transactionBegin s.transactionBegin := by
  by_cases hm : s.mode = .running
  · exact .carried (transactionBegin_keeps s ⟨hm, hs⟩)
  · unfold State.transactionBegin
    split
    · split
      · rename_i hrun
        exact absurd hrun hm
      all_goals exact passes_aside hs rfl rfl rfl rfl
    · exact passes_aside hs rfl rfl rfl rfl

theorem resetEnd_handles {s : State} (hs : s.Switched) : s.Handles .resetEnd s.resetEnd := by
  have hswitched := resetEnd_switched hs
  unfold State.resetEnd at hswitched ⊢
  split
  · rename_i cause hm
    obtain ⟨-, horders, hunit⟩ := hs.bare_stopped (by rw [hm]; nofun)
    rw [hm] at hswitched
    exact .bare ⟨hswitched, horders, hunit⟩
  all_goals exact passes_aside hs rfl rfl rfl rfl

theorem pinReset_handles {s : State} (hs : s.Switched) : s.Handles .pinReset s.pinReset := by
  unfold State.pinReset
  split
  · exact .bare (blocksReset_bare _ _ _)
  · exact .bare (blocksReset_bare _ _ _)
  · exact passes_aside hs rfl rfl rfl rfl

/-- Every command, over a state that meets the switch laws. -/
theorem exec_handles {c : Instr} {s t : State} (hs : s.Switched) (h : exec c s = .next t) : s.Handles c t := by
  cases c with
  | reset =>
    cases execNext h
    exact requestReset_handles hs
  | transactionBegin =>
    cases execNext h
    exact transactionBegin_handles hs
  | transactionEnd mosi =>
    cases execNext h
    exact transactionEnd_handles hs mosi
  | answerReady =>
    cases execNext h
    exact whileRunning_keeps hs (answerReady_keeps s)
  | powerOnReset =>
    cases execNext h
    exact .bare (blocksReset_bare _ _ _)
  | pinReset =>
    cases execNext h
    exact pinReset_handles hs
  | resetEnd =>
    cases execNext h
    exact resetEnd_handles hs
  | supplyLoss =>
    cases execNext h
    exact .bare (blocksReset_bare _ _ _)
  | uplinkFrame ch b0 b1 b2 b3 b4 =>
    cases execNext h
    exact whileRunning_keeps hs ((setFraming_keeps s ch none).next (checkFrame_keeps _ ch b0 b1 b2 b3 b4))
  | uplinkWord ch w =>
    cases execNext h
    exact whileRunning_keeps hs (uplinkWord_keeps s ch w)
  | badFrame ch k =>
    cases execNext h
    exact whileRunning_keeps hs
      (((setFraming_keeps s ch none).next (badFrame_keeps _ ch)).next (framingAfterBad_keeps _ ch k))
  | silenceDetected ch =>
    cases execNext h
    exact whenDue_keeps hs fun _ => silenceDetected_keeps s ch
  | downlinkBoundary =>
    cases execNext h
    exact whenDue_keeps hs fun _ => downlinkBoundary_keeps s
  | windowExpiry p =>
    cases execNext h
    exact whenDue_keeps hs fun _ => windowExpiry_keeps s p
  | groupClose code =>
    cases execNext h
    exact whenDue_keeps hs fun _ => groupClose_keeps s code
  | scanDwellEnd x y z =>
    cases execNext h
    exact whenDue_keeps hs fun hd => dwellEnd_keeps x y z hd
  | holdOffExpiry p =>
    cases execNext h
    exact whenDue_handles hs fun hl hd => .holdOffRun p hl rfl hd rfl
  | entryGrant =>
    cases execNext h
    exact whenDue_handles hs fun hl hd => .granted hl rfl hd rfl
  | pulseEnd =>
    cases execNext h
    exact whenDue_keeps hs fun _ => pulseEnd_keeps s
  | closeTimeout =>
    cases execNext h
    exact whenDue_keeps hs fun hd => closeTimeout_keeps hd
  | openTimeout =>
    cases execNext h
    exact whenDue_keeps hs fun hd => openTimeout_keeps hd
  | recoveryEnd =>
    cases execNext h
    exact whenDue_keeps hs fun _ => recoveryEnd_keeps s
  | energizedRising =>
    cases execNext h
    exact edge_handles hs rfl rfl (edges_keep _).1
  | energizedFalling =>
    cases execNext h
    exact edge_handles hs rfl rfl (edges_keep _).2.1
  | estopNFalling =>
    cases execNext h
    exact edge_handles hs rfl rfl (edges_keep _).2.2.1
  | brakeSetRising =>
    cases execNext h
    exact edge_handles hs rfl rfl (edges_keep _).2.2.2.1
  | provenRising =>
    cases execNext h
    exact edge_handles hs rfl rfl (edges_keep _).2.2.2.2
  | brakeSetFalling =>
    cases execNext h
    exact edge_handles hs rfl rfl (State.Kept.refl _)
  | brakeWaitExpiry =>
    cases execNext h
    exact whenDue_keeps hs fun _ => lockout_keeps s _
  | graceExpiry =>
    cases execNext h
    exact whenDue_keeps hs fun _ => graceExpiry_keeps s
  | provingDeadlineExpiry =>
    cases execNext h
    exact whenDue_keeps hs fun _ => provingTimeout_keeps s
  | setFrameSent =>
    cases execNext h
    exact whenDue_keeps hs fun _ => frameEnd_keeps s
  | adoptionFrame g =>
    cases execNext h
    exact whileRunning_keeps hs ((setPublisher_keeps s _).next (adoption_keeps (s.setReceiver none) g))
  | adoptionWord w afterIdle =>
    cases execNext h
    exact whileRunning_keeps hs (adoptionWord_keeps s _ afterIdle)
  | adoptionDeadlineExpiry =>
    cases execNext h
    exact whenDue_keeps hs fun _ => lockout_keeps s _
  | minimumTimerExpiry =>
    cases execNext h
    exact whenDue_keeps hs fun _ => minExpiry_keeps s
  | verificationDeadlineExpiry =>
    cases execNext h
    refine whenDue_keeps hs fun hd => verExpiry_keeps ?_
    obtain ⟨hver, -⟩ := (verDue_iff s).mp hd
    rw [hver]
    nofun
  | cleanRunSecond =>
    cases execNext h
    exact whenDue_keeps hs fun _ => cleanSecond_keeps s
  | cleanRunEnd =>
    cases execNext h
    exact whenDue_keeps hs fun _ => cleanEnd_keeps s
  | runningTimeSecond =>
    cases execNext h
    exact whenDue_keeps hs fun _ => runningSecond_keeps s
  | probationComplete p =>
    cases execNext h
    exact whenDue_keeps hs fun hd => probation_keeps hd
  | _ =>
    cases execNext h
    exact perform_handles hs (by nofun)

/-! ## Every step keeps the laws (R73, R75) -/

theorem State.Handles.switched {c : Instr} {s t : State} (h : s.Handles c t) : t.Switched := by
  cases h with
  | carried h => exact h.lawful.switched
  | holdOffRun p hs _ _ ht => exact ht ▸ (holdOffExpiry_lawful p hs).switched
  | granted hs _ hd ht => exact ht ▸ (entryGrant_lawful (again := fun _ => False) hs hd).1.switched
  | bare h => exact h.switched

/-- The idle part queues an event or lets a microsecond pass, and touches no entry and no pulse. -/
theorem idle_switched {s : State} (hs : s.Switched) : s.idle.Switched := by
  unfold State.idle
  split
  · rename_i hm
    split
    · exact (tick_keeps (again := fun _ => False) s ⟨hm, hs⟩).lawful.switched
    · unfold State.queueOne
      split
      · exact hs.congr rfl rfl rfl rfl
      · exact hs.congr rfl rfl rfl rfl
  all_goals exact hs.congr rfl rfl rfl rfl

/-- No dwell runs while a pulse is in flight, so none ends (R73). -/
theorem dwell_suspended {s : State} {p : Pos} {kind : SwitchKind} {since : Stamp} (hs : s.Switched)
    (hu : s.matrix.unit = .firing p kind since) : ¬s.dwellDue = true := by
  unfold State.dwellDue
  rw [hs.scan p kind since hu]
  nofun

/-- Settles O56: the idle part changes nothing that the laws read, and each command does what `exec_handles` says;
a dwell is suspended under a pulse. -/
theorem everyStepKeepsTheSwitchLaws : Obligations.EveryStepKeepsTheSwitchLaws := by
  refine ⟨fun s t hstep hs => ?_, fun a b c p kind since s hs hu => exec_early rfl (dwell_suspended hs hu)⟩
  unfold step at hstep
  split at hstep
  · exact execNext hstep ▸ idle_switched hs
  · rename_i c rest _
    exact (exec_handles (s := s.setPending rest) (hs.congr rfl rfl rfl rfl) hstep).switched

end Sys2Proof.Machine
end

section
/-! Proofs: the matrix timers (R79, R80, R83), and the hold-off of CLOSE pulses over every command (R76, R79,
R81). -/

namespace Sys2Proof.Machine

/-! ## The matrix timers (R79, R80, R83) -/

/-- Settles O40: each timer's command arises, and its event is read off the unit. -/
theorem matrixTimersRun : Obligations.MatrixTimersRun := by
  intro s hm
  refine ⟨fun e he hk hmark hnot hrun => ?_, fun p kind since hu hrun => ?_, fun p kind ended hu hrun => ?_,
    fun ended hu hrun => ?_⟩
  · exact exec_due rfl hm ((holdOffDue_iff s e.pos).mpr ⟨e, he, rfl, hk, hmark, hnot, hrun⟩) rfl
  · refine ⟨_, exec_due rfl hm ((pulseDue_iff s).mpr ⟨p, kind, since, hu, hrun⟩) ?_, rfl, ?_, ?_, rfl, rfl⟩
    · unfold State.pulseEnd
      rw [hu]
    · unfold State.fireLine
      rw [hu]
      rfl
    · unfold State.rankSelect
      rw [hu]
      rfl
  · refine exec_due rfl hm ((recoveryDue_iff s).mpr ⟨ended, .inr ⟨p, kind, hu⟩, hrun⟩) ?_
    unfold State.recoveryEnd
    rw [hu]
    rfl
  · refine exec_due rfl hm ((recoveryDue_iff s).mpr ⟨ended, .inl hu, hrun⟩) ?_
    unfold State.recoveryEnd
    rw [hu]
    rfl

/-! ## CLOSE pulses and their hold-off (R76, R79, R81) -/

/-- A hold-off that runs out is that of one entry, tHO after its stamp; each entry keeps the rest (R79). -/
theorem holdOffExpiry_entry {s : State} {p : Pos} {e : Entry} (hs : s.Lawful) (hd : s.holdOffDue p = true)
    (he : e ∈ (s.holdOffExpiry p).matrix.orders) :
    ∃ x ∈ s.matrix.orders, x.pos = e.pos ∧ x.kind = e.kind ∧ x.stamp = e.stamp ∧ x.holdOff = e.holdOff ∧
      (e.holdOffRun = x.holdOffRun ∨ (e.pos = p ∧ 1000 * s.params.tHO ≤ (s.time - e.stamp).toNat)) := by
  obtain ⟨x, hx, rfl⟩ := List.mem_map.mp he
  refine ⟨x, hx, ?_⟩
  split
  · rename_i hp
    obtain ⟨y, hy, hyp, -, -, -, hrun⟩ := (holdOffDue_iff s p).mp hd
    have hyx : y = x := Entry.alone hs.switched.alone hy hx (hyp.trans hp.1.symm)
    exact ⟨rfl, rfl, rfl, rfl, .inr ⟨hp.1, hyx ▸ hrun⟩⟩
  · exact ⟨rfl, rfl, rfl, rfl, .inl rfl⟩

/-- From an IDLE unit an operation that carries on leaves no pulse in flight. -/
theorem State.Kept.no_pulse {again : Pos → Prop} {s t : State} (h : s.Kept again t) (hs : s.Lawful)
    (hu : s.matrix.unit = .idle) (p : Pos) (kind : SwitchKind) (since : Stamp) :
    t.matrix.unit ≠ .firing p kind since := by
  intro ht
  have hsame := (h hs).pulse p kind since ht
  rw [hu, ht] at hsame
  cases hsame

/-- A close completed and reported carries on (R10, R82, R105). -/
theorem closeReported_keeps {again : Pos → Prop} {s : State} {p : Pos} (hf : s.Lawful → s.Free p)
    (hm : s.Lawful → (s.record p).closeFailed = false) : s.Kept again (s.closeConfirmed p).exitTest :=
  ((closeCompletion_keeps hf hm).next (setFlag_keeps _ .switchDone)).next (exitTest_keeps _)

/-- A CLOSE pulse in flight after a grant is the one that the grant starts, of an eligible entry (R81 to R83). -/
theorem entryGrant_closePulse {s : State} {p : Pos} {since : Stamp} (hs : s.Lawful) (hd : s.grantDue = true)
    (ht : s.entryGrant.matrix.unit = .firing p .toClose since) :
    since = s.time ∧ ∃ e ∈ s.matrix.orders, e.pos = p ∧ e.kind = .toClose ∧ e.hold = false ∧
      (e.holdOff = true → e.holdOffRun = true) := by
  unfold State.grantDue at hd
  rw [Bool.and_eq_true, beq_iff_eq, Option.isSome_iff_exists] at hd
  obtain ⟨hidle, e, hnext⟩ := hd
  obtain ⟨he, helig⟩ := nextEligible_listed hnext
  have htaken : (s.taken e).Lawful := (withoutEntries_keeps (again := fun _ => False) s _ hs).lawful
  have hfree : (s.taken e).Free e.pos := granted_free hs hidle he
  have hnone {u : State} (hk : (s.taken e).Kept (fun _ => False) u) :
      u.matrix.unit ≠ .firing p .toClose since := hk.no_pulse htaken hidle p .toClose since
  rw [entryGrant_eq hnext] at ht
  rcases (Entry.eligible_iff e s.engine.state).mp helig with ⟨hk, hhold, hrun⟩ | ⟨hk, -⟩
  · rw [grant_close hk] at ht
    split at ht
    · refine absurd ht (hnone (closeReported_keeps (fun _ => hfree) fun _ => ?_))
      exact (hs.switched.closeEntry e he hk).2
    · change FiringUnit.firing e.pos .toClose s.time = _ at ht
      cases ht
      refine ⟨rfl, e, he, rfl, hk, hhold, fun hmark => hrun.resolve_left ?_⟩
      rw [hmark]
      nofun
  · rw [grant_open hk] at ht
    split at ht
    · exact absurd ht (hnone (openConfirmed_keeps fun _ => hfree))
    · cases ht

/-- Every command carries the CLOSE entries on, but for one that ends a hold-off. -/
theorem State.Handles.lists {c : Instr} {s t : State} (h : s.Handles c t) : s.Lists (s.Relists c) t ∨
    ∃ p, s.Lawful ∧ c = .holdOffExpiry p ∧ s.holdOffDue p = true ∧ t = s.holdOffExpiry p := by
  cases h with
  | carried h => exact .inl h.entry
  | holdOffRun p hs hc hd ht => exact .inr ⟨p, hs, hc, hd, ht⟩
  | granted hs _ hd ht => exact .inl (ht ▸ (entryGrant_lawful hs hd).2)
  | bare h =>
    refine .inl fun e he => ?_
    rw [h.orders] at he
    cases he

/-- A CLOSE entry after a command stood before it, or is listed with its record's stamp and cause, or relisted. -/
theorem State.Handles.closeEntry {c : Instr} {s t : State} {e : Entry} (h : s.Handles c t)
    (he : e ∈ t.matrix.orders) (hk : e.kind = .toClose) :
    (∃ x ∈ s.matrix.orders, x.pos = e.pos ∧ x.kind = .toClose ∧ x.stamp = e.stamp ∧ x.holdOff = e.holdOff) ∨
      t.Ties e ∨ (s.Relists c e.pos ∧ e.holdOff = false) := by
  rcases h.lists with hlists | ⟨p, hs, -, hd, rfl⟩
  · rcases hlists e he hk with ⟨x, hx, hsame⟩ | ⟨-, hties⟩ | ⟨-, hmark, hagain⟩
    · exact .inl ⟨x, hx, hsame.pos, hsame.kind.trans hk, hsame.stamp, hsame.mark⟩
    · exact .inr (.inl hties)
    · exact .inr (.inr ⟨hagain, hmark⟩)
  · obtain ⟨x, hx, hpos, hkind, hstamp, hmark, -⟩ := holdOffExpiry_entry hs hd he
    exact .inl ⟨x, hx, hpos, hkind.trans hk, hstamp, hmark⟩

/-- A hold-off that has run after a command had run before it, or the command is its HOLD_OFF_EXPIRY, tHO after
the entry's stamp (R79). -/
theorem State.Handles.holdOffRan {c : Instr} {s t : State} {e : Entry} (h : s.Handles c t)
    (he : e ∈ t.matrix.orders) (hk : e.kind = .toClose) (hrun : e.holdOffRun = true) :
    (∃ x ∈ s.matrix.orders, x.pos = e.pos ∧ x.kind = .toClose ∧ x.stamp = e.stamp ∧ x.holdOffRun = true) ∨
      (c = .holdOffExpiry e.pos ∧ 1000 * s.params.tHO ≤ (s.time - e.stamp).toNat) := by
  rcases h.lists with hlists | ⟨p, hs, hc, hd, rfl⟩
  · rcases hlists e he hk with ⟨x, hx, hsame⟩ | ⟨hnot, -⟩ | ⟨hnot, -⟩
    · exact .inl ⟨x, hx, hsame.pos, hsame.kind.trans hk, hsame.stamp, hsame.run hrun⟩
    · exact absurd hrun (hnot ▸ Bool.false_ne_true)
    · exact absurd hrun (hnot ▸ Bool.false_ne_true)
  · obtain ⟨x, hx, hpos, hkind, hstamp, -, hstood | ⟨hp, htime⟩⟩ := holdOffExpiry_entry hs hd he
    · exact .inl ⟨x, hx, hpos, hkind.trans hk, hstamp, hstood ▸ hrun⟩
    · exact .inr ⟨hp ▸ hc, htime⟩

/-- A CLOSE pulse that a command starts is that of an ENTRY_GRANT (R81, R83). -/
theorem State.Handles.closePulse {c : Instr} {s t : State} {p : Pos} {since : Stamp} (h : s.Handles c t)
    (ht : t.matrix.unit = .firing p .toClose since) (hnew : s.matrix.unit ≠ t.matrix.unit) :
    c = .entryGrant ∧ since = s.time ∧ ∃ e ∈ s.matrix.orders, e.pos = p ∧ e.kind = .toClose ∧
      e.hold = false ∧ (e.holdOff = true → e.holdOffRun = true) := by
  cases h with
  | carried h => exact absurd (h.pulse p .toClose since ht) hnew
  | granted hs hc hd he => exact ⟨hc, entryGrant_closePulse hs hd (he ▸ ht)⟩
  | holdOffRun q _ _ _ he =>
    rw [he] at hnew
    exact absurd rfl hnew
  | bare h =>
    rw [h.unit] at ht
    cases ht

/-- Settles O41: each clause by what the command does to the list and the unit. -/
theorem closePulsesObserveTheHoldOff : Obligations.ClosePulsesObserveTheHoldOff := by
  intro c s t hs hexec
  have h := exec_handles hs hexec
  refine ⟨fun e he hk => ?_, fun e he hk => h.holdOffRan he hk, fun p since ht => h.closePulse ht⟩
  rcases h.closeEntry he hk with hstood | hties | ⟨⟨htag, hfailed⟩, hmark⟩
  · exact .inl hstood
  · exact .inr (.inl ⟨hties.stamp, hties.mark⟩)
  · exact .inr (.inr ⟨htag, hfailed, hmark⟩)

end Sys2Proof.Machine
end

section
/-! Proofs: what every elementary change does to the rating tables, the parameters, the attempt count and the
generations (R102, R139 to R141, R145, R157, R192, R194). -/

namespace Sys2Proof.Machine

/-! ## What an elementary change reaches -/

theorem setTables_frame (s : State) (t : Tables) : s.ChangesOnly (s.setTables t) [.tables] := by
  intro x hx
  cases x with
  | tables => exact absurd List.mem_cons_self hx
  | _ => rfl

/-- What an elementary change makes of the parameters, the engine, the tables and the publisher: it leaves all
four, changes one by its own rule, or is a reset, which takes each to its initial value (R187). -/
inductive BlockChange (may : Grants) (s t : State) : Prop where
  | same (hparams : t.params = s.params) (hengine : t.engine = s.engine) (htables : t.tables = s.tables)
      (hpublisher : t.publisher = s.publisher)
  | engine (h : EngineMove s.params s.manride s.engine t.engine) (hframe : s.ChangesOnly t [.engine])
  | tables (h : TablesMove s.tables t.tables) (hframe : s.ChangesOnly t [.tables])
  | publisher (h : PublisherMove s.publisher t.publisher) (hframe : s.ChangesOnly t [.publisher])
  | params (n lo hi v : Nat) (hr : paramRange n = some (lo, hi)) (hc : s.engine.state = .config)
      (h : t.params = s.params.store n (clampTo lo hi v)) (hframe : s.ChangesOnly t [.params])
  | reset (hr : may.resets = true) (hparams : t.params = Params.initial) (hengine : t.engine = Engine.initial)
      (htables : t.tables = Tables.initial) (hpublisher : t.publisher = Publisher.initial)

/-- A change of the roster or the links alone leaves the four. -/
theorem BlockChange.of_frame {may : Grants} {s t : State} (h : s.ChangesOnly t [.roster, .links]) :
    BlockChange may s t :=
  .same (h .params (by decide)) (h .engine (by decide)) (h .tables (by decide)) (h .publisher (by decide))

theorem Move.blockChange {may : Grants} {s t : State} (h : Move may s t) : BlockChange may s t := by
  cases h with
  | aside t h1 h2 h3 h4 h5 h6 => exact .same h1 h4 h5 h6
  | record p r _ => exact .of_frame ((setRecord_frame s p r).more (by decide))
  | enrol p _ _ _ _ _ => exact .of_frame ((setRecord_frame s p _).more (by decide))
  | records f _ => exact .of_frame ((mapRecords_frame s f).more (by decide))
  | commit parked _ => exact .of_frame ((commitRoster_frame s parked).more (by decide))
  | link ch l _ => exact .of_frame ((setLinks_frame s _).more (by decide))
  | transmitters f => exact .of_frame ((setLinks_frame s _).more (by decide))
  | engine e he => exact .engine he (setEngine_frame s e)
  | publisher p hp => exact .publisher hp (setPublisher_frame s p)
  | tables t ht => exact .tables ht (setTables_frame s t)
  | params n lo hi v hr hc => exact .params n lo hi v hr hc rfl (setParams_frame s _)
  | reset m r hr => exact .reset hr rfl rfl rfl rfl

/-! ## The shift table and the scale table (R139 to R143, R145, R146) -/

theorem Key.below_iff (a b : Key) : a.below b = true ↔
    a.h < b.h ∨ (a.h = b.h ∧ (a.i < b.i ∨ (a.i = b.i ∧ a.j < b.j))) := decide_eq_true_iff

theorem Key.below_trans {a b c : Key} (hab : a.below b = true) (hbc : b.below c = true) : a.below c = true := by
  rw [Key.below_iff] at *
  omega

/-- Of two keys that differ one is below the other (R139). -/
theorem Key.below_of_not_below {a b : Key} (hne : b ≠ a) (h : ¬a.below b = true) : b.below a = true := by
  rw [Key.below_iff] at *
  have hdiff : ¬(b.h = a.h ∧ b.i = a.i ∧ b.j = a.j) := fun he => hne (by
    obtain ⟨hh, hi, hj⟩ := he
    cases a
    cases b
    congr)
  omega

theorem mem_insertShift {e x : ShiftEntry} {l : List ShiftEntry} : x ∈ insertShift e l ↔ x = e ∨ x ∈ l := by
  induction l with
  | nil => simp [insertShift]
  | cons y ys ih =>
    unfold insertShift
    split
    · exact List.mem_cons
    · simp only [List.mem_cons, ih]
      exact or_left_comm

theorem insertShift_length (e : ShiftEntry) (l : List ShiftEntry) : (insertShift e l).length = l.length + 1 := by
  induction l with
  | nil => rfl
  | cons y ys ih =>
    unfold insertShift
    split
    · rfl
    · rw [List.length_cons, ih, List.length_cons]

/-- An entry of a new key at its place leaves the table in ascending key order (R142). -/
theorem insertShift_ascending {e : ShiftEntry} {l : List ShiftEntry} (hnew : ∀ x ∈ l, x.key ≠ e.key)
    (h : l.Pairwise fun a b => a.key.below b.key = true) :
    (insertShift e l).Pairwise fun a b => a.key.below b.key = true := by
  induction l with
  | nil => exact List.pairwise_singleton _ e
  | cons y ys ih =>
    obtain ⟨hy, hys⟩ := List.pairwise_cons.mp h
    unfold insertShift
    split
    · rename_i hey
      refine List.pairwise_cons.mpr ⟨fun x hx => ?_, h⟩
      rcases List.mem_cons.mp hx with rfl | hx
      · exact hey
      · exact Key.below_trans hey (hy x hx)
    · rename_i hey
      refine List.pairwise_cons.mpr ⟨fun x hx => ?_, ih (fun x hx => hnew x (List.mem_cons_of_mem _ hx)) hys⟩
      rcases mem_insertShift.mp hx with rfl | hx
      · exact Key.below_of_not_below (hnew y List.mem_cons_self) hey
      · exact hy x hx

theorem replaceShift_keys (e : ShiftEntry) (l : List ShiftEntry) :
    (replaceShift e l).map (·.key) = l.map (·.key) := by
  unfold replaceShift
  rw [List.map_map]
  refine List.map_congr_left fun x _ => ?_
  dsimp only [Function.comp]
  split
  · next h => exact h.symm
  · rfl

/-- The order of the table is that of its keys (R139). -/
theorem ascending_iff_keys (l : List ShiftEntry) : (l.Pairwise fun a b => a.key.below b.key = true) ↔
    (l.map (·.key)).Pairwise fun a b => a.below b = true := by
  rw [List.pairwise_map]

theorem mem_replaceShift {e x : ShiftEntry} {l : List ShiftEntry} (h : x ∈ replaceShift e l) : x = e ∨ x ∈ l := by
  obtain ⟨y, hy, rfl⟩ := List.mem_map.mp h
  split
  · exact .inl rfl
  · exact .inr hy

/-- LOAD_SHIFT, DROP_SHIFT and LOAD_SCALE keep the tables sound (R142, R143, R146). -/
theorem TablesMove.keeps_sound {t t' : Tables} (h : TablesMove t t') (ht : t.Sound) : t'.Sound := by
  cases h with
  | load e hk ha hf hnew hl =>
    refine ⟨?_, fun x hx => ?_, insertShift_ascending (fun x hx hxe => ?_) ht.ascending, ht.scale⟩
    · rw [insertShift_length]
      exact hl
    · rcases mem_insertShift.mp hx with rfl | hx
      · exact ⟨hk, ha, hf⟩
      · exact ht.entries x hx
    · rw [(findShift_isSome t.shift e.key).mpr ⟨x, hx, hxe⟩] at hnew
      cases hnew
  | replace e hk ha hf hold =>
    refine ⟨?_, fun x hx => ?_, ?_, ht.scale⟩
    · rw [replaceShift, List.length_map]
      exact ht.capacity
    · rcases mem_replaceShift hx with rfl | hx
      · exact ⟨hk, ha, hf⟩
      · exact ht.entries x hx
    · rw [ascending_iff_keys, replaceShift_keys, ← ascending_iff_keys]
      exact ht.ascending
  | drop k =>
    exact ⟨(List.length_filter_le _ _).trans ht.capacity, fun x hx => ht.entries x (List.mem_of_mem_filter hx),
      ht.ascending.filter _, ht.scale⟩
  | scale i ramp proving =>
    refine ⟨ht.capacity, ht.entries, ht.ascending, fun j => ?_⟩
    obtain ⟨hr, hr'⟩ := clampTo_le 1 64 ramp (by decide)
    obtain ⟨hp, hp'⟩ := clampTo_le 20 150 proving (by decide)
    by_cases hij : i = j
    · subst hij
      simpa using ⟨hr, hr', hp, hp'⟩
    · have hval : i.val ≠ j.val := fun he => hij (Fin.ext he)
      simpa [hval] using ht.scale j

theorem Move.keeps_tables {may : Grants} {s t : State} (h : Move may s t) (hs : s.tables.Sound) :
    t.tables.Sound := by
  cases h.blockChange with
  | tables h _ => exact h.keeps_sound hs
  | reset _ _ _ htables _ => exact htables ▸ Tables.initial_sound
  | same _ _ htables _ => exact htables ▸ hs
  | engine _ hframe | publisher _ hframe | params _ _ _ _ _ _ _ hframe =>
    exact (hframe .tables (by decide) : t.tables = s.tables) ▸ hs

/-! ## The generations (R157) -/

theorem PublisherMove.keeps_numbered {p p' : Publisher} (h : PublisherMove p p') (hp : p.Numbered) :
    p'.Numbered := by
  rcases h with ⟨hpub, had⟩ | ⟨hpub, had⟩ | ⟨hpub, had⟩
  · unfold Publisher.Numbered
    rw [hpub, had]
    exact hp
  · exact .inr (by rw [hpub, had])
  · exact .inl (by rw [hpub, had])

theorem Move.keeps_numbered {may : Grants} {s t : State} (h : Move may s t) (hs : s.publisher.Numbered) :
    t.publisher.Numbered := by
  cases h.blockChange with
  | publisher h _ => exact h.keeps_numbered hs
  | reset _ _ _ _ hpublisher => exact hpublisher ▸ .inl rfl
  | same _ _ _ hpublisher => exact hpublisher ▸ hs
  | engine _ hframe | tables _ hframe | params _ _ _ _ _ _ _ hframe =>
    exact (hframe .publisher (by decide) : t.publisher = s.publisher) ▸ hs

/-! ## The parameters (R192 to R194) -/

theorem paramRange_some {n lo hi : Nat} (h : paramRange n = some (lo, hi)) : n < 26 := by
  by_contra hn
  obtain ⟨m, rfl⟩ := Nat.exists_eq_add_of_le' (Nat.not_lt.mp hn)
  cases h

theorem paramRange_le {n lo hi : Nat} (h : paramRange n = some (lo, hi)) : lo ≤ hi := by
  have hn := paramRange_some h
  interval_cases n <;> cases h <;> decide

/-- The value stored for parameter n where v is given: that of a pair's upper end is held to its partner (R194). -/
def Params.storedValue (ps : Params) (n v : Nat) : Nat :=
  match n with
  | 10 => if v = 0 then 0 else max v ps.vLo
  | 13 => min v (1000 * ps.tHO)
  | 22 => max v ps.tVMIN
  | _ => v

/-- The parameter that a store of parameter n carries along (R194). -/
def followerOf : Nat → Option Nat
  | 9 => some 10
  | 12 => some 13
  | 21 => some 22
  | _ => none

theorem get_store_same (ps : Params) {n : Nat} (v : Nat) (hn : n < 26) :
    (ps.store n v).get n = ps.storedValue n v := by
  interval_cases n <;> rfl

/-- Any other parameter keeps its value: number by number, a store writes its own field and its follower's (R194). -/
theorem get_store_other (ps : Params) {n m : Nat} (v : Nat) (hm : m < 26) (hne : m ≠ n)
    (hf : followerOf n ≠ some m) : (ps.store n v).get m = ps.get m := by
  unfold Params.store
  split
  all_goals
    interval_cases m <;> first | rfl | exact absurd rfl hne | exact absurd rfl hf

/-- A value in the range of its parameter is stored as one in that range (R194). -/
theorem storedValue_range {ps : Params} (h : ps.Kept) {n lo hi v : Nat} (hr : paramRange n = some (lo, hi))
    (hlo : lo ≤ v) (hhi : v ≤ hi) : lo ≤ ps.storedValue n v ∧ ps.storedValue n v ≤ hi := by
  unfold Params.storedValue
  split
  · have hvLo : 0 ≤ ps.vLo ∧ ps.vLo ≤ 1023 := h.range 9 0 1023 rfl
    cases hr
    split <;> omega
  · cases hr
    omega
  · have htVMIN : 0 ≤ ps.tVMIN ∧ ps.tVMIN ≤ 5000 := h.range 21 0 5000 rfl
    cases hr
    omega
  · exact ⟨hlo, hhi⟩

/-- A parameter that a store carries along stays in its range (R194). -/
theorem follower_range {ps : Params} (h : ps.Kept) {n m lo hi lo' hi' v : Nat} (hf : followerOf n = some m)
    (hr : paramRange n = some (lo, hi)) (hv : v ≤ hi) (hr' : paramRange m = some (lo', hi')) :
    lo' ≤ (ps.store n v).get m ∧ (ps.store n v).get m ≤ hi' := by
  have hstood := h.range m lo' hi' hr'
  unfold followerOf at hf
  split at hf
  · cases hf
    cases hr
    cases hr'
    change 0 ≤ ps.vHi ∧ ps.vHi ≤ 1023 at hstood
    change 0 ≤ (if ps.vHi = 0 then 0 else max ps.vHi v) ∧ (if ps.vHi = 0 then 0 else max ps.vHi v) ≤ 1023
    split <;> omega
  · cases hf
    cases hr
    cases hr'
    change 0 ≤ ps.tCC ∧ ps.tCC ≤ 50000 at hstood
    change 0 ≤ min ps.tCC (1000 * v) ∧ min ps.tCC (1000 * v) ≤ 50000
    omega
  · cases hf
    cases hr
    cases hr'
    change 100 ≤ ps.tVER ∧ ps.tVER ≤ 30000 at hstood
    change 100 ≤ max ps.tVER v ∧ max ps.tVER v ≤ 30000
    omega
  · cases hf

/-- The three pairs keep their order over a store (R194). -/
theorem store_pairs {ps : Params} (h : ps.Kept) (n v : Nat) :
    (ps.store n v).tCC ≤ 1000 * (ps.store n v).tHO ∧ (ps.store n v).tVMIN ≤ (ps.store n v).tVER ∧
      ((ps.store n v).vHi = 0 ∨ (ps.store n v).vLo ≤ (ps.store n v).vHi) := by
  obtain ⟨-, hwindow, hverify, hvoltage⟩ := h
  unfold Params.store
  split
  case h_10 | h_11 =>
    refine ⟨hwindow, hverify, ?_⟩
    dsimp only
    split <;> omega
  case h_13 | h_14 => exact ⟨by dsimp only; omega, hverify, hvoltage⟩
  case h_22 | h_23 => exact ⟨hwindow, by dsimp only; omega, hvoltage⟩
  all_goals exact ⟨hwindow, hverify, hvoltage⟩

/-- A store within the parameter's range keeps every range and the order of the pairs (R192 to R194). -/
theorem Params.Kept.store {ps : Params} (h : ps.Kept) {n lo hi v : Nat} (hr : paramRange n = some (lo, hi))
    (hlo : lo ≤ v) (hhi : v ≤ hi) : (ps.store n v).Kept := by
  obtain ⟨hwindow, hverify, hvoltage⟩ := store_pairs h n v
  refine ⟨fun m lo' hi' hr' => ?_, hwindow, hverify, hvoltage⟩
  by_cases hmn : m = n
  · subst hmn
    obtain ⟨rfl, rfl⟩ : lo' = lo ∧ hi' = hi := by
      rw [hr] at hr'
      cases hr'
      exact ⟨rfl, rfl⟩
    rw [get_store_same ps v (paramRange_some hr)]
    exact storedValue_range h hr hlo hhi
  · by_cases hf : followerOf n = some m
    · exact follower_range h hf hr hhi hr'
    · rw [get_store_other ps v (paramRange_some hr') hmn hf]
      exact h.range m lo' hi' hr'

/-! ## The attempt count (R102) -/

/-- The attempt limit in force is 15 at most (R102). -/
theorem limitInForce_le {ps : Params} (h : ps.Kept) (manride : Bool) : ps.limitInForce manride ≤ 15 := by
  have haLim : 0 ≤ ps.aLim ∧ ps.aLim ≤ 15 := h.range 5 0 15 rfl
  unfold Params.limitInForce
  dsimp only
  split <;> split <;> omega

/-- The attempt count is raised only from below the limit in force (R102). -/
theorem EngineMove.keeps_attempts {ps : Params} {manride : Bool} {e e' : Engine} (h : EngineMove ps manride e e')
    (hps : ps.Kept) (he : e.attempts ≤ 15) : e'.attempts ≤ 15 := by
  have hlimit := limitInForce_le hps manride
  obtain ⟨-, h | h | h | ⟨hbelow, h⟩⟩ := h <;> omega

theorem Move.keeps_limited {may : Grants} {s t : State} (h : Move may s t) (hs : s.Limited) : t.Limited := by
  obtain ⟨hparams, hattempts⟩ := hs
  cases h.blockChange with
  | engine h hframe =>
    have hstood : t.params = s.params := hframe .params (by decide)
    exact ⟨hstood ▸ hparams, h.keeps_attempts hparams hattempts⟩
  | params n lo hi v hr _ h hframe =>
    have hstood : t.engine = s.engine := hframe .engine (by decide)
    obtain ⟨hlo, hhi⟩ := clampTo_le lo hi v (paramRange_le hr)
    exact ⟨h ▸ hparams.store hr hlo hhi, hstood ▸ hattempts⟩
  | reset _ hp he _ _ => exact ⟨hp ▸ Params.initial_kept, he ▸ Nat.zero_le 15⟩
  | same hp he _ _ => exact ⟨hp ▸ hparams, he ▸ hattempts⟩
  | tables _ hframe | publisher _ hframe =>
    have hp : t.params = s.params := hframe .params (by decide)
    have he : t.engine = s.engine := hframe .engine (by decide)
    exact ⟨hp ▸ hparams, he ▸ hattempts⟩

/-- Settles O55: every step is a chain of elementary changes, and each keeps the tables, the parameters with the
attempt count, and the generations. -/
theorem everyStepKeepsTablesAndEngineLaws : Obligations.EveryStepKeepsTablesAndEngineLaws := by
  intro s t hstep
  have hmoves := step_moves s t hstep
  exact ⟨hmoves.keeps fun _ _ => Move.keeps_tables, hmoves.keeps fun _ _ => Move.keeps_limited,
    hmoves.keeps fun _ _ => Move.keeps_numbered⟩

end Sys2Proof.Machine
end

section
/-! Proofs: which commands change the mode of the part and its reset-cause record (R187 to R191), and from it what
a reset alone does (R94, R189, R196) and what stands while a reset is held (R91, R188). -/

namespace Sys2Proof.Machine

/-! ## The mode and the reset-cause record over the shared operations -/

/-- What a reset, its end and the loss of supply alone change beside the blocks: the mode and the reset-cause
record (R188 to R190). -/
def State.standing (s : State) : Mode × ResetRecord := (s.mode, s.port.resetRecord)

theorem standing_foldl {α : Type} {f : State → α → State} (hf : ∀ s x, (f s x).standing = s.standing) (l : List α)
    (s : State) : (l.foldl f s).standing = s.standing := by
  induction l generalizing s with
  | nil => rfl
  | cons x xs ih => exact (ih (f s x)).trans (hf s x)

/-- A change of other parts than the mode and the port leaves it. -/
theorem standing_of_frame {s t : State} {l : List Part} (h : s.ChangesOnly t l) (hm : Part.mode ∉ l)
    (hp : Part.port ∉ l) : t.standing = s.standing := by
  have hmode : t.mode = s.mode := h .mode hm
  have hport : t.port = s.port := h .port hp
  unfold State.standing
  rw [hmode, hport]

/-- A choice between two states that leave it leaves it. -/
theorem standing_ite {s t u : State} {c : Prop} [Decidable c] (ht : t.standing = s.standing)
    (hu : u.standing = s.standing) : (if c then t else u).standing = s.standing := by
  split
  · exact ht
  · exact hu

@[simp] theorem setFlag_standing (s : State) (f : Flag) : (s.setFlag f).standing = s.standing := rfl
@[simp] theorem setEngine_standing (s : State) (e : Engine) : (s.setEngine e).standing = s.standing := rfl
@[simp] theorem setPublisher_standing (s : State) (p : Publisher) : (s.setPublisher p).standing = s.standing := rfl
@[simp] theorem setMatrix_standing (s : State) (m : Matrix) : (s.setMatrix m).standing = s.standing := rfl
@[simp] theorem setOrders_standing (s : State) (l : List Entry) : (s.setOrders l).standing = s.standing := rfl
@[simp] theorem setUnit_standing (s : State) (u : FiringUnit) : (s.setUnit u).standing = s.standing := rfl
@[simp] theorem setIntake_standing (s : State) (i : Intake) : (s.setIntake i).standing = s.standing := rfl
@[simp] theorem setAccrual_standing (s : State) (n : Nat) : (s.setAccrual n).standing = s.standing := rfl
@[simp] theorem setSense_standing (s : State) (l : Sense) : (s.setSense l).standing = s.standing := rfl
@[simp] theorem setResult_standing (s : State) (r : Option Result) : (s.setResult r).standing = s.standing := rfl
@[simp] theorem setRx_standing (s : State) (ch : Chan) (r : Receiver) : (s.setRx ch r).standing = s.standing := rfl
@[simp] theorem setFraming_standing (s : State) (ch : Chan) (f : Option OpenFrame) :
    (s.setFraming ch f).standing = s.standing := rfl
@[simp] theorem setRecord_standing (s : State) (p : Pos) (r : Record) : (s.setRecord p r).standing = s.standing :=
  rfl
@[simp] theorem mapRecords_standing (s : State) (f : Pos → Record → Record) :
    (s.mapRecords f).standing = s.standing := standing_of_frame (mapRecords_frame s f) (by decide) (by decide)
@[simp] theorem commitRoster_standing (s : State) (l : List Pos) : (s.commitRoster l).standing = s.standing :=
  standing_of_frame (commitRoster_frame s l) (by decide) (by decide)
@[simp] theorem clearRun_standing (s : State) (p : Pos) : (s.clearRun p).standing = s.standing := rfl
@[simp] theorem publishEntry_standing (s : State) (r : Result) : (s.publishEntry r).standing = s.standing := rfl
@[simp] theorem setReceiver_standing (s : State) (r : Option (List Byte)) :
    (s.setReceiver r).standing = s.standing := rfl
@[simp] theorem answered_standing (s : State) (tag : Byte) (r : Reply) : (s.answered tag r).standing = s.standing :=
  rfl
@[simp] theorem sampleLines_standing (s : State) : s.sampleLines.standing = s.standing := rfl

/-! ## Faults and the engine -/

@[simp] theorem applyFault_standing (s : State) (p : Pos) (c : FaultCause) (t : Stamp) :
    (s.applyFault p c t).standing = s.standing := by
  unfold State.applyFault
  dsimp only
  split <;> split <;> rfl

@[simp] theorem applyContactOpen_standing (s : State) (p : Pos) (t : Stamp) :
    (s.applyContactOpen p t).standing = s.standing := by
  unfold State.applyContactOpen
  exact standing_ite rfl rfl

@[simp] theorem openWithdrawn_standing (s : State) (p : Pos) : (s.openWithdrawn p).standing = s.standing := by
  unfold State.openWithdrawn
  exact standing_ite (by simp) rfl

@[simp] theorem withdrawOpens_standing (s : State) : s.withdrawOpens.standing = s.standing :=
  standing_foldl (fun t (e : Entry) => openWithdrawn_standing t e.pos) _ _

@[simp] theorem changeState_standing (s : State) (new : EngineState) :
    (s.changeState new).standing = s.standing := by
  unfold State.changeState
  exact standing_ite (by simp) rfl

@[simp] theorem endPass_standing (s : State) (o : PassOutcome) : (s.endPass o).standing = s.standing :=
  standing_of_frame (endPass_frame s o) (by decide) (by decide)

@[simp] theorem lockout_standing (s : State) (c : LockoutCause) : (s.lockout c).standing = s.standing := by
  unfold State.lockout
  exact standing_ite rfl (by simp)

@[simp] theorem commit_standing (s : State) (r : Result) (l : List Pos) : (s.commit r l).standing = s.standing := by
  simp [State.commit]

@[simp] theorem runRebalance_standing (s : State) (k : PassKind) : (s.runRebalance k).standing = s.standing := by
  unfold State.runRebalance
  dsimp only
  split
  · exact (commit_standing _ _ _).trans (standing_ite rfl rfl)
  · exact (lockout_standing _ _).trans (standing_ite rfl rfl)

@[simp] theorem exitTest_standing (s : State) : s.exitTest.standing = s.standing := by
  unfold State.exitTest
  refine standing_ite ?_ rfl
  split
  · exact runRebalance_standing s _
  · rfl

@[simp] theorem enterBypassing_standing (s : State) (k : PassKind) :
    (s.enterBypassing k).standing = s.standing := by
  simp [State.enterBypassing]

@[simp] theorem enterHalted_standing (s : State) : s.enterHalted.standing = s.standing := by
  unfold State.enterHalted
  exact standing_ite (by simp) (by simp)

@[simp] theorem accounting_standing (s : State) : s.accounting.standing = s.standing := by
  unfold State.accounting
  exact standing_ite (by simp) (by simp)

@[simp] theorem faultNotice_standing (s : State) : s.faultNotice.standing = s.standing := by
  unfold State.faultNotice
  split <;> simp

@[simp] theorem enterRunning_standing (s : State) : s.enterRunning.standing = s.standing := by
  unfold State.enterRunning
  dsimp only
  split
  · split <;> simp
  · simp

@[simp] theorem enterProving_standing (s : State) : s.enterProving.standing = s.standing := by
  simp [State.enterProving]

@[simp] theorem verificationPassed_standing (s : State) : s.verificationPassed.standing = s.standing := by
  unfold State.verificationPassed
  split
  · split <;> simp
  · rfl

@[simp] theorem passTest_standing (s : State) : s.passTest.standing = s.standing :=
  standing_ite (by simp) rfl

/-! ## Reports -/

@[simp] theorem restoreMember_standing (s : State) (p : Pos) : (s.restoreMember p).standing = s.standing := rfl

@[simp] theorem closeRestored_standing (s : State) (p : Pos) : (s.closeRestored p).standing = s.standing :=
  standing_ite (by simp) rfl

@[simp] theorem restoreAll_standing (s : State) (l : List Pos) : (s.restoreAll l).standing = s.standing := by
  unfold State.restoreAll
  dsimp only
  rw [standing_foldl closeRestored_standing, lockout_standing, standing_foldl restoreMember_standing]

@[simp] theorem judge_standing (s : State) (c : Eligible) (p : Pos) (t : Stamp) :
    (s.judge c p t).standing = s.standing :=
  standing_ite (by simp) (by simp)

@[simp] theorem takeFault_standing (s : State) (p : Pos) (c : FaultCause) :
    (s.takeFault p c).standing = s.standing := by
  unfold State.takeFault
  dsimp only
  split
  · exact standing_ite (by simp) (by simp)
  · simp

@[simp] theorem takeContactOpen_standing (s : State) (p : Pos) : (s.takeContactOpen p).standing = s.standing := by
  unfold State.takeContactOpen
  dsimp only
  split <;> simp

@[simp] theorem reportCode_standing (s : State) (p : Pos) (c : CellCode) :
    (s.reportCode p c).standing = s.standing := by
  unfold State.reportCode
  split
  · exact standing_ite (by simp) rfl
  · rfl

@[simp] theorem reportLink_standing (s : State) (p : Pos) (c : FaultCause) :
    (s.reportLink p c).standing = s.standing :=
  standing_ite (by simp) rfl

@[simp] theorem reportContact_standing (s : State) (p : Pos) (closed : Bool) :
    (s.reportContact p closed).standing = s.standing :=
  standing_ite (standing_ite (by simp) rfl) (standing_ite (by simp) rfl)

@[simp] theorem windowExpiry_standing (s : State) (p : Pos) : (s.windowExpiry p).standing = s.standing := rfl

@[simp] theorem groupClose_standing (s : State) (c : Eligible) : (s.groupClose c).standing = s.standing := rfl

/-! ## Cell links -/

@[simp] theorem badFrame_standing (s : State) (ch : Chan) : (s.badFrame ch).standing = s.standing := by
  unfold State.badFrame
  dsimp only
  split
  · rfl
  · exact standing_ite (by simp) rfl

@[simp] theorem frameToRecord_standing (s : State) (ch : Chan) (p : Pos) (f : UplinkFields) :
    (s.frameToRecord ch p f).standing = s.standing := by
  have hlatch (b : Bool) (t : State) : (if b = true then t.clearFaultReset ch else t).standing = t.standing :=
    standing_ite rfl rfl
  unfold State.frameToRecord
  refine standing_ite (standing_ite ?_ (hlatch _ _)) ?_
  · exact (passTest_standing _).trans (hlatch _ _)
  · exact (reportCode_standing _ _ _).trans (hlatch _ _)

@[simp] theorem checkFrame_standing (s : State) (ch : Chan) (b0 b1 b2 b3 b4 : Byte) :
    (s.checkFrame ch b0 b1 b2 b3 b4).standing = s.standing := by
  refine standing_ite (standing_ite ?_ ?_) (badFrame_standing s ch)
  · have hlive : ∀ r, (if (s.link ch).rx.link = .live then s.setRx ch r else s).standing = s.standing :=
      fun r => standing_ite rfl rfl
    exact standing_ite (hlive _) (hlive _)
  · unfold State.acceptFrame
    dsimp only
    split <;> simp

@[simp] theorem closeFrame_standing (s : State) (ch : Chan) (f : OpenFrame) :
    (s.closeFrame ch f).standing = s.standing := by
  unfold State.closeFrame
  refine standing_ite (by simp) ?_
  split <;> simp

@[simp] theorem uplinkWord_standing (s : State) (ch : Chan) (w : BitVec 12) :
    (s.uplinkWord ch w).standing = s.standing := by
  refine standing_ite ?_ ?_
  · exact (setFraming_standing _ _ _).trans (standing_ite (by simp) rfl)
  · unfold State.continuationWord
    split
    · simp
    · exact standing_ite (by simp) rfl

@[simp] theorem silenceDetected_standing (s : State) (ch : Chan) : (s.silenceDetected ch).standing = s.standing := by
  unfold State.silenceDetected
  dsimp only
  split <;> simp

@[simp] theorem framingAfterBad_standing (s : State) (ch : Chan) (k : BadKind) :
    (s.framingAfterBad ch k).standing = s.standing := by
  cases k <;> rfl

@[simp] theorem downlinkBoundary_standing (s : State) : s.downlinkBoundary.standing = s.standing :=
  standing_of_frame (downlinkBoundary_frame s) (by decide) (by decide)

/-! ## The switch matrix -/

@[simp] theorem closeConfirmed_standing (s : State) (p : Pos) : (s.closeConfirmed p).standing = s.standing := rfl

@[simp] theorem openConfirmed_standing (s : State) (p : Pos) : (s.openConfirmed p).standing = s.standing := by
  unfold State.openConfirmed
  refine (setFlag_standing _ _).trans (standing_ite ?_ rfl)
  unfold State.setFaultReset
  split <;> rfl

@[simp] theorem confirm_standing (s : State) (p : Pos) (closed : Bool) :
    (s.confirm p closed).standing = s.standing := by
  unfold State.confirm
  split
  · refine standing_ite ?_ rfl
    split <;> simp
  all_goals rfl

@[simp] theorem readContact_standing (s : State) (p : Pos) (closed : Bool) :
    (s.readContact p closed).standing = s.standing := by
  have hsettled (t : State) : (t.settledChange p closed).standing = t.standing :=
    standing_ite (by simp) (by simp)
  exact standing_ite (standing_ite rfl (standing_ite (hsettled _) rfl)) rfl

@[simp] theorem dwellEnd_standing (s : State) (a b c : Bool) : (s.dwellEnd a b c).standing = s.standing := by
  simp [State.dwellEnd]

@[simp] theorem holdOffExpiry_standing (s : State) (p : Pos) : (s.holdOffExpiry p).standing = s.standing := rfl

@[simp] theorem entryGrant_standing (s : State) : s.entryGrant.standing = s.standing := by
  unfold State.entryGrant
  split
  · unfold State.grant
    dsimp only
    split <;> simp [State.pulseStart]
  · rfl

@[simp] theorem pulseEnd_standing (s : State) : s.pulseEnd.standing = s.standing := by
  unfold State.pulseEnd
  split <;> rfl

@[simp] theorem closeTimeout_standing (s : State) : s.closeTimeout.standing = s.standing := by
  unfold State.closeTimeout
  split <;> simp

@[simp] theorem openTimeout_standing (s : State) : s.openTimeout.standing = s.standing := by
  unfold State.openTimeout
  split <;> simp

@[simp] theorem recoveryEnd_standing (s : State) : s.recoveryEnd.standing = s.standing := by
  unfold State.recoveryEnd
  split <;> rfl

/-! ## The winder lines and the publisher -/

@[simp] theorem enterCharging_standing (s : State) : s.enterCharging.standing = s.standing := by
  simp [State.enterCharging]

@[simp] theorem energizedRise_standing (s : State) : s.energizedRise.standing = s.standing :=
  standing_ite (by simp) rfl

@[simp] theorem energizedFall_standing (s : State) : s.energizedFall.standing = s.standing := by
  unfold State.energizedFall
  split <;> simp

@[simp] theorem estopFall_standing (s : State) : s.estopFall.standing = s.standing := by
  unfold State.estopFall
  split <;> simp

@[simp] theorem brakeRise_standing (s : State) : s.brakeRise.standing = s.standing := standing_ite (by simp) rfl

@[simp] theorem provenRise_standing (s : State) : s.provenRise.standing = s.standing := standing_ite (by simp) rfl

@[simp] theorem graceExpiry_standing (s : State) : s.graceExpiry.standing = s.standing :=
  standing_ite (by simp) (by simp)

@[simp] theorem provingTimeout_standing (s : State) : s.provingTimeout.standing = s.standing := by
  simp [State.provingTimeout]

@[simp] theorem cleanSecond_standing (s : State) : s.cleanSecond.standing = s.standing := rfl

@[simp] theorem cleanEnd_standing (s : State) : s.cleanEnd.standing = s.standing := rfl

@[simp] theorem runningSecond_standing (s : State) : s.runningSecond.standing = s.standing :=
  (mapRecords_standing (s.setAccrual _) _).trans (setAccrual_standing s _)

@[simp] theorem frameEnd_standing (s : State) : s.frameEnd.standing = s.standing := by
  unfold State.frameEnd
  split <;> rfl

@[simp] theorem adoption_standing (s : State) (g : BitVec 16) : (s.adoption g).standing = s.standing :=
  standing_ite (by simp [State.verifyingEntry]) rfl

@[simp] theorem adoptionWord_standing (s : State) (d : Byte) (afterIdle : Bool) :
    (s.adoptionWord d afterIdle).standing = s.standing := by
  have hclosed (t : State) (l : List Byte) : (t.adoptionClosed l).standing = t.standing := by
    unfold State.adoptionClosed
    split
    · exact standing_ite (by simp) rfl
    · rfl
  unfold State.adoptionWord
  refine standing_ite rfl ?_
  split
  · rfl
  · exact standing_ite (hclosed _ _) rfl

@[simp] theorem minExpiry_standing (s : State) : s.minExpiry.standing = s.standing := by
  simp [State.minExpiry]

@[simp] theorem verExpiry_standing (s : State) : s.verExpiry.standing = s.standing := by
  have hfail (t : State) (p : Pos) : (t.verifyFail p).standing = t.standing := standing_ite (by simp) rfl
  refine standing_ite (by simp) ?_
  rw [accounting_standing, endPass_standing, standing_foldl hfail]

/-! ## Requests -/

theorem whileRunning_standing {s : State} {f : State → State} (h : (f s).standing = s.standing) :
    (s.whileRunning f).standing = s.standing := by
  unfold State.whileRunning
  split
  · exact h
  all_goals rfl

theorem request_standing {s : State} {tag : Byte} {op : State → Executed} (h : (op s).state.standing = s.standing) :
    (s.request tag op).standing = s.standing :=
  whileRunning_standing ((answered_standing _ _ _).trans h)

theorem requestEnrol_standing (p c : Byte) (n : BitVec 32) (t : Byte) (s : State) :
    (requestEnrol p c n t s).state.standing = s.standing := by
  unfold requestEnrol
  split
  · split
    · rfl
    · split <;> rfl
  all_goals rfl

theorem requestRetire_standing (p : Byte) (s : State) : (requestRetire p s).state.standing = s.standing := by
  unfold requestRetire State.unassign
  split
  · rfl
  · split
    · rfl
    · split
      · rfl
      · split <;> rfl

theorem requestReadmit_standing (p : Byte) (s : State) : (requestReadmit p s).state.standing = s.standing := by
  unfold requestReadmit
  split
  · rfl
  · split
    · rfl
    · split <;> rfl

theorem requestClearTally_standing (k i : Byte) (s : State) :
    (requestClearTally k i s).state.standing = s.standing := by
  have hopen (t : State) (p : Pos) : (t.releasedOpen p).standing = t.standing :=
    standing_ite rfl (standing_ite (by simp) rfl)
  unfold requestClearTally
  split
  · rfl
  · exact (standing_foldl hopen _ _).trans (mapRecords_standing _ _)

theorem requestSetParam_standing (n : Byte) (v : BitVec 32) (s : State) :
    (requestSetParam n v s).state.standing = s.standing := by
  unfold requestSetParam
  split
  · rfl
  · split
    · rfl
    · refine standing_ite (standing_foldl (fun t ch => standing_ite ?_ rfl) _ _) rfl
      exact silenceDetected_standing t ch

theorem requestStart_standing (s : State) : (requestStart s).state.standing = s.standing := by
  have hleft : (if s.energized = true then s.enterCharging else s.changeState .dormant).standing = s.standing :=
    standing_ite (by simp) (by simp)
  unfold requestStart
  split
  · rfl
  · split
    · rfl
    · exact standing_ite hleft ((lockout_standing _ _).trans hleft)

theorem requestLoadShift_standing (h i j : Byte) (hi ij jh fsh : BitVec 16) (s : State) :
    (requestLoadShift h i j hi ij jh fsh s).state.standing = s.standing := by
  unfold requestLoadShift
  dsimp only
  split
  · rfl
  · split
    · rfl
    · split <;> rfl

theorem requestDropShift_standing (h i j : Byte) (s : State) :
    (requestDropShift h i j s).state.standing = s.standing := by
  unfold requestDropShift
  dsimp only
  split
  · rfl
  · split
    · rfl
    · split <;> rfl

theorem requestLoadScale_standing (x d r p : Byte) (s : State) :
    (requestLoadScale x d r p s).state.standing = s.standing := by
  unfold requestLoadScale
  split
  · rfl
  · split <;> rfl

theorem requestClearLockout_standing (s : State) : (requestClearLockout s).state.standing = s.standing := by
  have hrelist (t : State) (p : Pos) : (t.relist p).standing = t.standing := standing_ite rfl rfl
  unfold requestClearLockout State.lockoutCleared
  split
  · rfl
  · dsimp only
    refine standing_ite ?_ ?_
    · rw [enterBypassing_standing, sampleLines_standing, setEngine_standing, standing_foldl hrelist]
    · rw [changeState_standing, sampleLines_standing, setEngine_standing, standing_foldl hrelist]

/-- Every request but RESET leaves the mode and the reset-cause record. -/
theorem perform_standing (s : State) {i : Instr} (hi : i ≠ .reset) : (s.perform i).standing = s.standing := by
  have read {t : State} (h : t = s) : t.standing = s.standing := congrArg State.standing h
  cases i with
  | reset => exact absurd rfl hi
  | lookup tag p => exact request_standing (read (requestLookup_state p s))
  | findChannel tag c => exact request_standing (read (requestFindChannel_state c s))
  | findSerial tag n => exact request_standing (read (requestFindSerial_state n s))
  | list tag c => exact request_standing (read (requestList_state c s))
  | linkStatus tag c => exact request_standing (read (requestLinkStatus_state c s))
  | getParam tag n => exact request_standing (read (requestGetParam_state n s))
  | readShift tag k x y z => exact request_standing (read (requestReadShift_state k x y z s))
  | readScale tag x d => exact request_standing (read (requestReadScale_state x d s))
  | nop | summary | readCause | ack | setMask => exact request_standing rfl
  | enrol tag p c n t => exact request_standing (requestEnrol_standing p c n t s)
  | retire tag p => exact request_standing (requestRetire_standing p s)
  | readmit tag p => exact request_standing (requestReadmit_standing p s)
  | clearTally tag k i => exact request_standing (requestClearTally_standing k i s)
  | setParam tag n v => exact request_standing (requestSetParam_standing n v s)
  | start tag => exact request_standing (requestStart_standing s)
  | loadShift tag h i j x y z f => exact request_standing (requestLoadShift_standing h i j x y z f s)
  | dropShift tag h i j => exact request_standing (requestDropShift_standing h i j s)
  | loadScale tag x d r p => exact request_standing (requestLoadScale_standing x d r p s)
  | clearLockout tag => exact request_standing (requestClearLockout_standing s)
  | _ => rfl

/-! ## Every command (R187 to R191) -/

/-- What a command makes of the mode and the reset-cause record: it leaves both, and in a part that does not run
everything but the lines and CS_N (R188); or it resets the part (R187); or it ends a reset and leaves the record. -/
inductive StandingChange (s : State) (c : Instr) (t : State) : Prop where
  | kept (h : t.standing = s.standing) (hheld : s.mode ≠ .running → s.ChangesOnly t [.lines, .csN])
  | reset (hr : Instr.resets c = true) (u : State) (m : Mode) (r : ResetRecord) (h : t = u.blocksReset m r)
  | ended (h : t.mode = .running) (hr : t.port.resetRecord = s.port.resetRecord)

section
variable {s : State} {c : Instr}

theorem whileRunning_change {f : State → State} (h : (f s).standing = s.standing) :
    StandingChange s c (s.whileRunning f) :=
  .kept (whileRunning_standing h) fun hm => (whileRunning_stopped hm f).symm ▸ .refl s _

theorem whenDue_change {due : Bool} {f : State → State} (h : (f s).standing = s.standing) :
    StandingChange s c (s.whenDue due f) := whileRunning_change (standing_ite h rfl)

/-- An edge of a winder line presents its level, and in a part that runs the engine takes it (R90, R188). -/
theorem edge_change {settled presented event : State → State} {l l' : Lines} (hset : settled s = s.setLines l)
    (hpre : presented s = s.setLines l') (h : ∀ u, (event u).standing = u.standing) :
    StandingChange s c (s.edge settled presented event) := by
  by_cases hm : s.mode = .running
  · rw [edge_running hm, hset]
    exact .kept (h _) (absurd hm)
  · rw [edge_stopped hm, hpre]
    exact .kept rfl fun _ => (setLines_frame s l').more (by decide)

theorem setCsN_frame (s : State) (level : Bool) : s.ChangesOnly (s.setCsN level) [.csN] := by
  intro x hx
  cases x with
  | csN => exact absurd List.mem_cons_self hx
  | _ => rfl

theorem csFall_standing (s : State) : s.csFall.standing = s.standing := by
  unfold State.csFall
  split <;> rfl

theorem transactionBegin_change : StandingChange s c s.transactionBegin := by
  have hframe : s.ChangesOnly (s.setCsN false) [.lines, .csN] := (setCsN_frame s false).more (by decide)
  unfold State.transactionBegin
  split
  · split
    · rename_i hm
      exact .kept (csFall_standing _) (absurd hm)
    · exact .kept rfl fun _ => hframe
    · exact .kept rfl fun _ => hframe
  · exact .kept rfl fun _ => .refl s _

/-- RESET resets a part that runs, whether given directly or in a frame (R184). -/
theorem requestReset_change (hr : Instr.resets c = true) : StandingChange s c (s.whileRunning State.requestReset) := by
  by_cases hm : s.mode = .running
  · rw [whileRunning_running hm]
    exact .reset hr _ _ _ rfl
  · rw [whileRunning_stopped hm]
    exact .kept rfl fun _ => .refl s _

theorem perform_change : StandingChange s c (s.perform c) := by
  by_cases hc : c = .reset
  · subst hc
    exact requestReset_change rfl
  · exact .kept (perform_standing s hc) fun hm => (perform_stopped hm c).symm ▸ .refl s _

/-- The request that a transaction carries is performed as one given directly (R173, R175). -/
theorem csRise_change (mosi : List Bool) (hm : s.mode = .running) :
    StandingChange s (.transactionEnd mosi) ((s.setCsN true).csRise mosi) := by
  unfold State.csRise
  split
  · unfold State.served
    split
    · exact .kept rfl (absurd hm)
    · rename_i i hi
      by_cases hr : i = .reset
      · have hresets : Instr.resets (.transactionEnd mosi) = true := by
          simp only [Instr.resets, Instr.carried, hi, hr, Instr.namesReset]
        subst hr
        change StandingChange s _ ((s.setCsN true).whileRunning State.requestReset)
        rw [whileRunning_running (s := s.setCsN true) hm]
        exact .reset hresets _ _ _ rfl
      · exact .kept (perform_standing (s.setCsN true) hr) (absurd hm)
  all_goals exact .kept rfl (absurd hm)

theorem transactionEnd_change (mosi : List Bool) :
    StandingChange s (.transactionEnd mosi) (s.transactionEnd mosi) := by
  have hframe : s.ChangesOnly (s.setCsN true) [.lines, .csN] := (setCsN_frame s true).more (by decide)
  unfold State.transactionEnd
  split
  · exact .kept rfl fun _ => .refl s _
  · split
    · rename_i hm
      exact csRise_change mosi hm
    · exact .kept rfl fun _ => hframe
    · exact .kept rfl fun _ => hframe

theorem pinReset_change : StandingChange s .pinReset s.pinReset := by
  unfold State.pinReset
  split
  · exact .reset rfl _ _ _ rfl
  · exact .reset rfl _ _ _ rfl
  · exact .kept rfl fun _ => .refl s _

theorem portAtEnd_resetRecord (s : State) (cause : ResetCause) :
    (s.portAtEnd cause).resetRecord = s.port.resetRecord := by
  unfold State.portAtEnd
  split <;> rfl

theorem resetEnd_change : StandingChange s .resetEnd s.resetEnd := by
  unfold State.resetEnd
  split
  · exact .ended rfl (portAtEnd_resetRecord s _)
  all_goals exact .kept rfl fun _ => .refl s _

end

/-- Every command leaves the mode and the reset-cause record, but for the resets and RESET_END. -/
theorem exec_change {c : Instr} {s t : State} (h : exec c s = .next t) : StandingChange s c t := by
  cases c with
  | transactionBegin =>
    cases execNext h
    exact transactionBegin_change
  | transactionEnd mosi =>
    cases execNext h
    exact transactionEnd_change mosi
  | powerOnReset | supplyLoss =>
    cases execNext h
    exact .reset rfl _ _ _ rfl
  | pinReset =>
    cases execNext h
    exact pinReset_change
  | resetEnd =>
    cases execNext h
    exact resetEnd_change
  | answerReady =>
    cases execNext h
    refine whileRunning_change ?_
    unfold State.answerReady
    split <;> rfl
  | uplinkFrame | badFrame | uplinkWord | adoptionFrame | adoptionWord =>
    cases execNext h
    exact whileRunning_change (by simp)
  | silenceDetected | downlinkBoundary | windowExpiry | groupClose | scanDwellEnd | holdOffExpiry | entryGrant
  | pulseEnd | closeTimeout | openTimeout | recoveryEnd | brakeWaitExpiry | graceExpiry | provingDeadlineExpiry
  | setFrameSent | adoptionDeadlineExpiry | minimumTimerExpiry | verificationDeadlineExpiry | cleanRunSecond
  | cleanRunEnd | runningTimeSecond | probationComplete =>
    cases execNext h
    exact whenDue_change (by simp)
  | energizedRising =>
    cases execNext h
    exact edge_change rfl rfl energizedRise_standing
  | energizedFalling =>
    cases execNext h
    exact edge_change rfl rfl energizedFall_standing
  | estopNFalling =>
    cases execNext h
    exact edge_change rfl rfl estopFall_standing
  | brakeSetRising =>
    cases execNext h
    exact edge_change rfl rfl brakeRise_standing
  | provenRising =>
    cases execNext h
    exact edge_change rfl rfl provenRise_standing
  | brakeSetFalling =>
    cases execNext h
    exact edge_change rfl rfl fun _ => rfl
  | _ =>
    cases execNext h
    exact perform_change

/-! ## Only a reset leads back to CONFIG (R94, R189, R193, R196) -/

/-- Outside CONFIG an elementary change but a reset leaves CONFIG and the parameters alone. -/
theorem Move.keeps_out_of_config {may : Grants} {s t : State} (h : Move may s t) (hr : may.resets = false)
    (hs : s.engine.state ≠ .config) : t.engine.state ≠ .config ∧ t.params = s.params := by
  cases h.blockChange with
  | same hparams hengine _ _ => exact ⟨hengine ▸ hs, hparams⟩
  | engine h hframe => exact ⟨h.1.elim (fun hstood => hstood ▸ hs) id, hframe .params (by decide)⟩
  | tables _ hframe | publisher _ hframe =>
    have hstood : t.engine = s.engine := hframe .engine (by decide)
    exact ⟨hstood ▸ hs, hframe .params (by decide)⟩
  | params _ _ _ _ _ hc => exact absurd hc hs
  | reset hreset => exact absurd hreset (hr ▸ Bool.false_ne_true)

/-- Settles O59: the record by what each command makes of it; CONFIG and the parameters by the elementary changes
of a command that is not granted a reset. -/
theorem resetAloneReturnsToConfig : Obligations.ResetAloneReturnsToConfig := by
  intro c s t hexec hres
  refine ⟨?_, fun hs => ?_⟩
  · cases exec_change hexec with
    | kept h _ => exact congrArg Prod.snd h
    | reset hr => exact absurd hr (hres ▸ Bool.false_ne_true)
    | ended _ hr => exact hr
  · refine (exec_moves c s t hexec).keeps
      (P := fun u => u.engine.state ≠ .config ∧ u.params = s.params) (fun u v hm hu => ?_) ⟨hs, rfl⟩
    obtain ⟨hstate, hparams⟩ := hm.keeps_out_of_config hres hu.1
    exact ⟨hstate, hparams.trans hu.2⟩

/-! ## What stands while a reset is held (R91, R188) -/

theorem blocksReset_stands (s : State) (m : Mode) (r : ResetRecord) : (s.blocksReset m r).StandsWhileHeld := by
  refine fun _ => ⟨fun x hx => ?_, rfl, rfl⟩
  cases x with
  | mode | lines | sense | csN | matrix | port | choices | pending => exact absurd (by decide) hx
  | _ => rfl

/-- What is outside the blocks may change while a reset is held. -/
theorem State.StandsWhileHeld.of_frame {s t : State} (h : s.StandsWhileHeld)
    (hf : s.ChangesOnly t [.lines, .csN, .choices, .pending]) : t.StandsWhileHeld := by
  have hmode : t.mode = s.mode := hf .mode (by decide)
  have hmatrix : t.matrix = s.matrix := hf .matrix (by decide)
  have hport : t.port = s.port := hf .port (by decide)
  intro hm
  obtain ⟨hblocks, hmat, hprt⟩ := h (hmode ▸ hm)
  exact ⟨hblocks.trans (hf.more (by decide)), hmatrix.trans hmat, hport ▸ hprt⟩

theorem exec_stands {c : Instr} {s t : State} (h : exec c s = .next t) (hs : s.StandsWhileHeld) :
    t.StandsWhileHeld := by
  cases exec_change h with
  | kept hstood hheld =>
    have hmode : t.mode = s.mode := congrArg Prod.fst hstood
    exact fun hm => hs.of_frame ((hheld (hmode ▸ hm)).more (by decide)) hm
  | reset _ u m r ht => exact ht ▸ blocksReset_stands u m r
  | ended hm _ => exact absurd hm

theorem setPending_frame (s : State) (q : List Instr) : s.ChangesOnly (s.setPending q) [.pending] := by
  intro x hx
  cases x with
  | pending => exact absurd List.mem_cons_self hx
  | _ => rfl

theorem idle_stands {s : State} (hs : s.StandsWhileHeld) : s.idle.StandsWhileHeld := by
  have hqueued (q : List Instr) : (s.setPending q).StandsWhileHeld :=
    hs.of_frame ((setPending_frame s q).more (by decide))
  unfold State.idle
  split
  · rename_i hm
    split
    · exact fun h => absurd hm h
    · unfold State.queueOne
      split
      · exact hqueued _
      · exact fun h => absurd hm h
  · exact hs
  · exact hqueued _
  · exact hqueued _
  · exact hs

/-- The outputs of a part held at its after-reset values (R91, R188). -/
theorem held_outputs {s : State} (hs : s.StandsWhileHeld) (hm : s.mode ≠ .running) :
    s.tripN = false ∧ s.brakeHold = true ∧ s.proveEn = false ∧ s.attnN = true ∧
    s.rankSelect = none ∧ s.fireLine = none ∧ (∀ n, s.misoByte n = none) ∧
    (∀ k, s.mtx k = true) ∧ ∀ ch k, s.dtx ch k = true := by
  obtain ⟨hblocks, hmatrix, hport⟩ := hs hm
  have hengine : s.engine = Engine.initial := hblocks .engine (by decide)
  have hpublisher : s.publisher = Publisher.initial := hblocks .publisher (by decide)
  have hlink (ch : Chan) : s.link ch = Link.initial :=
    (State.link_congr (s := State.reset) (hblocks .links (by decide)) ch).trans (reset_link ch)
  refine ⟨?_, ?_, ?_, ?_, ?_, ?_, fun n => ?_, fun k => ?_, fun ch k => dtx_idle ?_ k⟩
  · unfold State.tripN
    rw [hengine]
    rfl
  · unfold State.brakeHold
    rw [hengine]
    rfl
  · unfold State.proveEn
    rw [hengine]
    rfl
  · unfold State.attnN
    rw [hport]
    exact (by decide : (0x00#8 &&& 0xFF#8 == 0x00#8) = true)
  · unfold State.rankSelect
    rw [hmatrix]
    rfl
  · unfold State.fireLine
    rw [hmatrix]
    rfl
  · unfold State.misoByte
    split
    · rfl
    · rfl
    · rfl
    · rename_i hrun
      exact absurd hrun hm
  · unfold State.mtx State.setLineWords
    rw [hpublisher]
    exact lineLevel_nil k
  · rw [hlink]
    rfl

/-- Settles O57: the outputs are read off the engine state; a command leaves a held part, resets it or ends the
reset, and the idle part touches what is outside the blocks alone. -/
theorem outputsFollowTheEngineAndTheReset : Obligations.OutputsFollowTheEngineAndTheReset := by
  refine ⟨fun s => ?_, fun s t hstep hs => ?_, fun s => held_outputs⟩
  · unfold State.tripN State.brakeHold State.proveEn
    cases s.engine.state <;> simp [EngineState.tripN, EngineState.brakeHold, EngineState.proveEn]
  · unfold step at hstep
    split at hstep
    · exact execNext hstep ▸ idle_stands hs
    · rename_i c rest _
      exact exec_stands hstep (hs.of_frame ((setPending_frame s rest).more (by decide)))

end Sys2Proof.Machine
end

section
/-! Proofs: START, the edges of the winder lines and the engine's waits (R90 to R99, R103, R104, R109 to R113, R159,
R198, R199), adoption (R158, R161) and SUMMARY (R117). -/

namespace Sys2Proof.Machine

/-! ## Changes that touch the engine, the publisher and the flags alone -/

/-- Entry into CHARGING from a state other than DORMANT, with the grace timer started (R97). -/
theorem enterCharging_enters (s : State) (hd : s.engine.state ≠ .dormant) :
    s.enterCharging.engine = { s.engine.enter .charging with grace := some s.time } ∧
      s.enterCharging.publisher = s.publisher.stopped ∧ s.Raises s.enterCharging [.stateChange] ∧
      s.ChangesOnly s.enterCharging [.engine, .publisher, .port] := by
  obtain ⟨-, -, hpublisher, hraises, hframe⟩ := changeState_awake_spec s .charging hd
    { (s.changeState .charging).engine with grace := some (s.changeState .charging).time }
  refine ⟨?_, hpublisher, hraises, hframe⟩
  have htime : (s.changeState .charging).time = s.time := changeState_only s .charging hd .time (by decide)
  show ({ (s.changeState .charging).engine with grace := some (s.changeState .charging).time } : Engine) = _
  rw [changeState_engine, htime]

/-! ## START (R198, R199) -/

theorem inServiceCount_eq (s : State) (q : Nat) : s.inServiceCount q =
    (allPositions.filter fun p => p.val / 10 == q && (s.record p).state == .inService).length := by
  unfold State.inServiceCount phasePositions phaseOf
  rw [List.filter_filter]
  simp only [Bool.and_comm]

theorem incomplete_iff (s : State) : s.incomplete = true ↔ ¬(s.params.nMin ≤ s.inServiceCount 0 ∧
    s.params.nMin ≤ s.inServiceCount 1 ∧ s.params.nMin ≤ s.inServiceCount 2) := by
  simp only [State.incomplete, Bool.or_eq_true, decide_eq_true_eq]
  omega

/-- Leaving CONFIG, before ESTOP_N is read: DORMANT or CHARGING by the level of ENERGIZED (R94, R199). -/
def State.leftConfig (s : State) : State := if s.energized then s.enterCharging else s.changeState .dormant

theorem leftConfig_spec {s : State} (hc : s.engine.state = .config) :
    (s.lines.energized.level = false → s.leftConfig.engine = s.engine.enter .dormant) ∧
    (s.lines.energized.level = true →
      s.leftConfig.engine = { s.engine.enter .charging with grace := some s.time }) ∧
    s.leftConfig.publisher = s.publisher.stopped ∧ s.Raises s.leftConfig [.stateChange] ∧
    s.ChangesOnly s.leftConfig [.engine, .publisher, .port] := by
  have hd : s.engine.state ≠ .dormant := by
    rw [hc]
    nofun
  unfold State.leftConfig State.energized
  cases s.lines.energized.level with
  | true =>
    obtain ⟨hengine, hrest⟩ := enterCharging_enters s hd
    exact ⟨nofun, fun _ => hengine, hrest⟩
  | false =>
    exact ⟨fun _ => changeState_engine s .dormant, nofun, changeState_publisher s .dormant,
      changeState_raises s .dormant hd, changeState_only s .dormant hd⟩

/-- With no OPEN entry listed nothing is withdrawn (R78). -/
theorem withdrawOpens_none {s : State} (h : ∀ e ∈ s.matrix.orders, e.kind = .toClose) : s.withdrawOpens = s := by
  have hopen : (s.matrix.orders.filter fun e => e.kind == .toOpen) = [] :=
    List.filter_eq_nil_iff.mpr fun e he => by rw [h e he]; decide
  have hclose : (s.matrix.orders.filter fun e => e.kind == .toClose) = s.matrix.orders :=
    List.filter_eq_self.mpr fun e he => by rw [h e he]; rfl
  unfold State.withdrawOpens
  rw [hopen, hclose]
  rfl

/-- A change of state out of DORMANT with no OPEN entry listed (R78, R93). -/
theorem changeState_none {s : State} (new : EngineState) (h : ∀ e ∈ s.matrix.orders, e.kind = .toClose) :
    s.changeState new =
      ((s.setEngine (s.engine.enter new)).setPublisher s.publisher.stopped).setFlag .stateChange := by
  unfold State.changeState
  dsimp only
  split
  · exact withdrawOpens_none h
  · rfl

/-- A lockout request with no OPEN entry listed raises its two flags and touches no record and no entry (R113). -/
theorem lockout_none {s : State} (c : LockoutCause) (hl : s.engine.state ≠ .lockout)
    (h : ∀ e ∈ s.matrix.orders, e.kind = .toClose) :
    s.Raises (s.lockout c) [.stateChange, .lockedOut] ∧
      s.ChangesOnly (s.lockout c) [.engine, .publisher, .port] := by
  have hend := endPass_frame s .endedByLockout
  have hmatrix : (s.endPass .endedByLockout).matrix = s.matrix := hend .matrix (by decide)
  unfold State.lockout
  rw [if_neg hl]
  dsimp only
  generalize s.endPass .endedByLockout = w at hend hmatrix
  rw [changeState_none .lockout (hmatrix ▸ h)]
  obtain ⟨x, hx⟩ : ∃ x, x = (w.setEngine (w.engine.enter .lockout)).setPublisher w.publisher.stopped := ⟨_, rfl⟩
  have hxf : s.ChangesOnly x [.engine, .publisher, .port] := by
    rw [hx]
    exact ((hend.more (by decide)).trans ((setEngine_frame w _).more (by decide))).trans
      ((setPublisher_frame _ _).more (by decide))
  have hxp : x.port = s.port := by
    rw [hx]
    exact hend .port (by decide)
  rw [← hx]
  refine ⟨((setFlag_raises x .stateChange).before hxp).trans (State.Raises.before rfl (setFlag_raises _ .lockedOut)),
    ?_⟩
  exact ((hxf.trans ((setFlag_frame x _).more (by decide))).trans ((setEngine_frame _ _).more (by decide))).trans
    ((setFlag_frame _ _).more (by decide))

theorem started_eq (s : State) :
    s.started = if s.lines.estopN.level then s.leftConfig else s.leftConfig.lockout .estop := rfl

/-- A START accepted with ESTOP_N low (R113, R199). -/
theorem leftConfig_estop {s : State} (hc : s.engine.state = .config) :
    (s.leftConfig.lockout .estop).engine = s.engine.lockedOut .estop ∧
    (s.leftConfig.lockout .estop).publisher = s.publisher.stopped ∧
    (s.leftConfig.lockout .estop).time = s.time ∧
    ((∀ e ∈ s.matrix.orders, e.kind = .toClose) →
      s.Raises (s.leftConfig.lockout .estop) [.stateChange, .lockedOut] ∧
      s.ChangesOnly (s.leftConfig.lockout .estop) [.engine, .publisher, .port]) := by
  obtain ⟨hlow, hhigh, hpublisher, hraises, hframe⟩ := leftConfig_spec hc
  generalize s.leftConfig = x at hlow hhigh hpublisher hraises hframe
  have hl : x.engine.state ≠ .lockout := by
    cases hen : s.lines.energized.level with
    | true => rw [hhigh hen]; nofun
    | false => rw [hlow hen]; nofun
  have htime : x.time = s.time := hframe .time (by decide)
  have hmatrix : x.matrix = s.matrix := hframe .matrix (by decide)
  refine ⟨?_, ?_, Eq.trans (lockout_frame x .estop .time (by decide)) htime, fun hclose => ?_⟩
  · rw [lockout_engine x .estop hl, endPass_passEnded]
    cases hen : s.lines.energized.level with
    | true => rw [hhigh hen]; rfl
    | false => rw [hlow hen]; rfl
  · rw [lockout_publisher x .estop hl, hpublisher]
    rfl
  · obtain ⟨hr, hf⟩ := lockout_none .estop hl (hmatrix ▸ hclose)
    exact ⟨(hraises.trans hr).same fun f => by cases f <;> rfl, hframe.trans hf⟩

/-- Settles O22: the two checks, then `leftConfig_spec` with ESTOP_N high and `leftConfig_estop` with it low. -/
theorem startChecksPhasesAndLines : Obligations.StartChecksPhasesAndLines := by
  intro tag s hm inService complete
  have hcount (q : Nat) : inService q = s.inServiceCount q := (inServiceCount_eq s q).symm
  have hincomplete : s.incomplete = true ↔ ¬complete := by
    rw [incomplete_iff, ← hcount, ← hcount, ← hcount]
  refine ⟨fun hc => refuses_of hm rfl (if_pos hc), fun hc hn => refuses_of hm rfl ?_, fun hc hcomplete => ?_⟩
  · unfold requestStart
    rw [if_neg (not_not.mpr hc), if_pos (hincomplete.mpr hn)]
  have haccepted : requestStart s = { reply := .done [], state := s.started } := by
    unfold requestStart
    rw [if_neg (not_not.mpr hc), if_neg fun h => hincomplete.mp h hcomplete]
  obtain ⟨hlow, hhigh, hpublisher, hraises, hframe⟩ := leftConfig_spec hc
  obtain ⟨eengine, epublisher, etime, enone⟩ := leftConfig_estop hc
  have hperforms (ht : s.started.time = s.time) : s.Performs (.start tag) tag .done [] s.started :=
    performs_of hm rfl haccepted ht
  rw [started_eq] at hperforms
  cases hestop : s.lines.estopN.level with
  | true =>
    rw [hestop] at hperforms
    exact ⟨_, hperforms (hframe .time (by decide)), fun _ hen => ⟨hlow hen, hraises⟩,
      fun _ hen => ⟨hhigh hen, hraises⟩, nofun, fun _ => ⟨nofun, hpublisher, hframe⟩⟩
  | false =>
    rw [hestop] at hperforms
    exact ⟨_, hperforms etime, nofun, nofun, fun _ => eengine,
      fun hclose => ⟨fun _ => (enone hclose).1, epublisher, (enone hclose).2⟩⟩

/-! ## The edges of the winder lines (R90, R95, R96, R99, R103) -/

/-- An edge while the part runs settles its line, and the engine takes the event (R204). -/
theorem exec_edge {c : Instr} {s t : State} {settled presented event : State → State}
    (he : exec c s = .next (s.edge settled presented event)) (hm : s.mode = .running)
    (ht : event (settled s) = t) : exec c s = .next t := by
  rw [he, edge_running hm, ht]

/-- The end of a pass and a change of state other than out of DORMANT (R93, R107). -/
theorem endPass_changeState (s : State) (o : PassOutcome) (new : EngineState) (hd : s.engine.state ≠ .dormant) :
    ((s.endPass o).changeState new).engine = (s.engine.passEnded o).enter new ∧
      s.Raises ((s.endPass o).changeState new) [.stateChange] ∧
      ((s.endPass o).changeState new).publisher = s.publisher.stopped ∧
      s.ChangesOnly ((s.endPass o).changeState new) [.engine, .publisher, .port] := by
  have hend := endPass_frame s o
  have hpublisher : (s.endPass o).publisher = s.publisher := hend .publisher (by decide)
  have hd' : (s.endPass o).engine.state ≠ .dormant := by rwa [endPass_state]
  refine ⟨?_, (changeState_raises _ new hd').before (hend .port (by decide)), ?_,
    (hend.more (by decide)).trans (changeState_only _ new hd')⟩
  · rw [changeState_engine, endPass_passEnded]
  · rw [changeState_publisher, hpublisher]

/-- ENERGIZED falling (R99). -/
theorem energizedFall_spec (s : State) :
    (s.engine.state = .config ∨ s.engine.state = .lockout ∨ s.engine.state = .dormant → s.energizedFall = s) ∧
    (s.engine.state ≠ .config → s.engine.state ≠ .lockout → s.engine.state ≠ .dormant →
      s.energizedFall.engine = (s.engine.passEnded .abandoned).enter .dormant ∧
      s.Raises s.energizedFall [.stateChange] ∧ s.energizedFall.publisher = s.publisher.stopped ∧
      s.ChangesOnly s.energizedFall [.engine, .publisher, .port]) := by
  unfold State.energizedFall
  refine ⟨fun h => ?_, fun hc hl hd => ?_⟩
  · rcases h with h | h | h <;> rw [h]
  · split
    · contradiction
    · contradiction
    · contradiction
    all_goals exact endPass_changeState s .abandoned .dormant hd

/-- ESTOP_N falling (R95). -/
theorem estopFall_spec (s : State) :
    (s.engine.state = .config ∨ s.engine.state = .lockout → s.estopFall = s) ∧
    (s.engine.state ≠ .config → s.engine.state ≠ .lockout → s.engine.state ≠ .dormant →
      s.LocksOut s.estopFall .estop) := by
  unfold State.estopFall
  refine ⟨fun h => ?_, fun hc hl hd => ?_⟩
  · rcases h with h | h <;> rw [h]
  · split
    · contradiction
    · contradiction
    all_goals exact lockout_locksOut s .estop hl hd

/-- BRAKE_SET rising (R103). -/
theorem brakeRise_spec (s : State) :
    (s.engine.state ≠ .halted → s.brakeRise = s) ∧
    (s.engine.state = .halted → ∃ v : State,
      v.engine = { s.engine.enter .bypassing with passToCome := some .restart } ∧
      v.publisher = s.publisher.stopped ∧ s.Raises v [.stateChange] ∧
      s.ChangesOnly v [.engine, .publisher, .port] ∧ v.ExitTests s.brakeRise) := by
  unfold State.brakeRise
  refine ⟨fun h => if_neg h, fun h => ?_⟩
  rw [if_pos h]
  exact enterBypassing_enters s .restart (by rw [h]; nofun)

/-- Settles O44: each edge settles its line, and the engine takes it by its state. -/
theorem winderEdgesMoveTheEngine : Obligations.WinderEdgesMoveTheEngine := by
  intro s hm settled st
  exact ⟨⟨_, _, exec_edge rfl hm rfl, rfl, energizedFall_spec (s.setEnergized (settled false))⟩,
    ⟨_, _, exec_edge rfl hm rfl, rfl, estopFall_spec (s.setEstopN (settled false))⟩,
    ⟨_, _, exec_edge rfl hm rfl, rfl, brakeRise_spec (s.setBrakeSet (settled true))⟩,
    exec_edge rfl hm rfl, fun hd => exec_edge rfl hm (if_neg hd)⟩

/-! ## The engine's waits (R98, R104, R110, R111, R159) -/

theorem holdsEngine_iff (r : Record) :
    r.holdsEngine = true ↔ (r.state = .faulted ∧ r.closeFailed = false) ∨ r.state = .closing := by
  simp [Record.holdsEngine]

/-- Grace expiry in CHARGING (R98). -/
theorem graceExpiry_spec (s : State) (hc : s.engine.state = .charging) :
    let holding := ∃ p, ((s.record p).state = .faulted ∧ (s.record p).closeFailed = false) ∨
      (s.record p).state = .closing
    (holding → s.graceExpiry.engine = { s.engine.enter .bypassing with passToCome := some .cold } ∧
      s.graceExpiry.publisher = s.publisher.stopped ∧ s.Raises s.graceExpiry [.stateChange] ∧
      s.ChangesOnly s.graceExpiry [.engine, .publisher, .port]) ∧
    (¬holding → s.Rebalances s.graceExpiry .cold 0) := by
  intro holding
  have hholds : (allPositions.any fun p => (s.record p).holdsEngine) = true ↔ holding := by
    simp [holding, holdsEngine_iff, allPositions]
  have hd : s.engine.state ≠ .dormant := by rw [hc]; nofun
  unfold State.graceExpiry
  refine ⟨fun h => ?_, fun h => ?_⟩
  · rw [if_pos (hholds.mpr h)]
    obtain ⟨u, hengine, hpublisher, hraises, hframe, hexit⟩ := enterBypassing_enters s .cold hd
    have hout : u.Outstanding := (State.outstanding_congr (hframe .roster (by decide))
      (hframe .intake (by decide))).mpr (.inl h)
    rw [hexit.1 (.inr hout)]
    exact ⟨hengine, hpublisher, hraises, hframe⟩
  · rw [if_neg fun ha => h (hholds.mp ha)]
    exact runRebalance_rebalances s .cold hd (by rw [hc]; nofun)

/-- The engine in RUNNING after a RESTART pass, its clean-run countdown started (R109, R112). -/
def Engine.restarted (e : Engine) (pass : Pass) (tCLEAN : Nat) : Engine :=
  { e.enter .running with
    pass := some { pass with outcome := some .completeRestart }
    cleanRun := some { remaining := tCLEAN, accrual := 0 } }

theorem enterRunning_restart {s : State} {pass : Pass} (hpass : s.engine.pass = some pass)
    (hkind : pass.kind = .restart) : s.enterRunning =
      ((s.changeState .running).setEngine (s.engine.restarted pass s.params.tCLEAN)).setFlag .restarted := by
  obtain ⟨kind, attempt, outcome⟩ := pass
  subst hkind
  unfold State.enterRunning
  rw [hpass]
  dsimp only
  rw [changeState_engine]
  rfl

/-- PROVEN rising (R109, R110). -/
theorem provenRise_spec (s : State) :
    (s.engine.state ≠ .proving → s.provenRise = s) ∧
    (∀ pass, s.engine.state = .proving → s.engine.pass = some pass → pass.kind = .restart →
      s.provenRise.engine = { s.engine.enter .running with
        pass := some { pass with outcome := some .completeRestart }
        cleanRun := some { remaining := s.params.tCLEAN, accrual := 0 } } ∧
      s.Raises s.provenRise [.stateChange, .restarted] ∧ s.provenRise.publisher = s.publisher.stopped ∧
      s.ChangesOnly s.provenRise [.engine, .publisher, .port]) := by
  unfold State.provenRise
  refine ⟨fun h => if_neg h, fun pass h hpass hkind => ?_⟩
  rw [if_pos h, enterRunning_restart hpass hkind]
  obtain ⟨-, -, hpublisher, hraises, hframe⟩ := changeState_awake_spec s .running (by rw [h]; nofun)
    (s.engine.restarted pass s.params.tCLEAN)
  exact ⟨rfl, hraises.trans (setFlag_raises _ .restarted), hpublisher,
    hframe.trans ((setFlag_frame _ .restarted).more (by decide))⟩

/-- Settles O46: each wait is due when it arises, and its event is that of the engine's state. -/
theorem waitsEndByEventOrDeadline : Obligations.WaitsEndByEventOrDeadline := by
  refine ⟨fun s since hm hc hg hrun => ?_, fun s hm => ⟨?_, fun since hp hs hrun => ?_,
    fun since hh hs hb hrun => ?_, fun since hp hs hrun => ?_⟩⟩
  · exact ⟨_, exec_due rfl hm ((graceDue_iff s).mpr ⟨hc, since, hg, hrun⟩) rfl, graceExpiry_spec s hc⟩
  · exact ⟨_, _, exec_edge rfl hm rfl, rfl, provenRise_spec (s.setProven (Line.settle true))⟩
  · exact ⟨_, exec_due rfl hm ((provingDue_iff s).mpr ⟨hp, since, hs, hrun⟩) rfl,
      accounting_accounts s .endedByProveTimeout (by rw [hp]; nofun) (by rw [hp]; nofun)⟩
  · exact ⟨_, exec_due rfl hm ((brakeWaitDue_iff s).mpr ⟨hh, hb, since, hs, hrun⟩) rfl,
      lockout_locksOut s .brakeTimeout (by rw [hh]; nofun) (by rw [hh]; nofun)⟩
  · exact ⟨_, exec_due rfl hm ((adoptDue_iff s).mpr ⟨hp, since, hs, hrun⟩) rfl,
      lockout_locksOut s .modulator (by rw [hp]; nofun) (by rw [hp]; nofun)⟩

/-! ## Adoption (R158, R161, R162) -/

theorem verifiable_iff (r : Record) : r.verifiable = true ↔
    r.state = .parked ∨ ((r.state = .inService ∨ r.state = .probation) ∧ r.offset ≠ none) := by
  unfold Record.verifiable
  cases r.state <;> simp [Option.isSome_iff_ne_none]

theorem mem_verifiedSet {s : State} {p : Pos} : p ∈ s.verifiedSet ↔ (s.record p).verifiable = true := by
  simp [State.verifiedSet, allPositions]

theorem verifiedSet_ascending (s : State) : s.verifiedSet.Pairwise (· < ·) :=
  (List.pairwise_lt_finRange 30).filter _

/-- VERIFYING as it is entered, before the pass condition is tested (R161). -/
def State.verifyingArmed (s : State) : State :=
  (s.mapRecords fun p r => if s.verifiedSet.contains p then { r with cleanRun := some 0 } else r).setPublisher
    { s.publisher with
      verified := some s.verifiedSet, minTimer := some s.time, minElapsed := s.params.tVMIN == 0,
      verDeadline := some s.time }

theorem verifyingEntry_eq (s : State) : s.verifyingEntry = s.verifyingArmed.passTest := by
  unfold State.verifyingEntry State.verifyingArmed
  dsimp only
  rw [State.mapRecords_publisher]

theorem verifyingArmed_record (s : State) (p : Pos) : s.verifyingArmed.record p =
    if (s.record p).verifiable then { s.record p with cleanRun := some 0 } else s.record p := by
  unfold State.verifyingArmed
  rw [State.setPublisher_record, State.record_mapRecords]
  simp only [List.contains_iff_mem, mem_verifiedSet]

theorem verifyingArmed_frame (s : State) : s.ChangesOnly s.verifyingArmed [.roster, .publisher] :=
  ((mapRecords_frame s _).more (by decide)).trans ((setPublisher_frame _ _).more (by decide))

/-- At its entry the pass condition cannot hold: the minimum timer runs, or a verified record's run is 0 (R162). -/
theorem verifyingArmed_holds {s : State} (h : s.params.tVMIN ≠ 0 ∨ ∃ p, (s.record p).verifiable = true) :
    ¬s.verifyingArmed.PassHolds := by
  rintro ⟨helapsed, ps, hps, hruns⟩
  change (s.params.tVMIN == 0) = true at helapsed
  change some s.verifiedSet = some ps at hps
  cases hps
  rcases h with hmin | ⟨p, hp⟩
  · exact hmin (beq_iff_eq.mp helapsed)
  · have hrun := hruns p (mem_verifiedSet.mpr hp)
    rw [verifyingArmed_record, if_pos hp] at hrun
    change max 1 _ ≤ 0 at hrun
    omega

/-- Settles O49: the state change leaves the records, and what `verifyingArmed` writes does not pass at once. -/
theorem adoptionEntersVerifying : Obligations.AdoptionEntersVerifying := by
  intro g s hm accepted verifiable
  have hexec : exec (.adoptionFrame g) s = .next ((s.setReceiver none).adoption g) :=
    exec_running (f := fun s => (s.setReceiver none).adoption g) rfl hm
  refine ⟨fun hn => ?_, fun hacc hset => ?_⟩
  · rw [hexec]
    exact congrArg Host.Outcome.next (if_neg hn)
  obtain ⟨hstate, hg, hsent⟩ := hacc
  obtain ⟨v, hv⟩ : ∃ v, v = s.setPublisher
      { s.publisher with receiver := none, adopted := s.publisher.published } := ⟨_, rfl⟩
  have hvf : s.ChangesOnly v [.publisher] := hv ▸ setPublisher_frame s _
  have hveng : v.engine = s.engine := hvf .engine (by decide)
  have hd : v.engine.state ≠ .dormant := by
    rw [hveng, hstate]
    nofun
  obtain ⟨w, hw⟩ : ∃ w, w = v.changeState .verifying := ⟨_, rfl⟩
  have hengine : w.engine = s.engine.enter .verifying := by rw [hw, changeState_engine, hveng]
  have hpublisher : w.publisher =
      { s.publisher.stopped with receiver := none, adopted := s.publisher.published } := by
    rw [hw, changeState_publisher, hv]
    rfl
  have hraises : s.Raises w [.stateChange] :=
    hw ▸ (changeState_raises v .verifying hd).before (hvf .port (by decide))
  have hframe : s.ChangesOnly w [.engine, .publisher, .port] :=
    (hvf.more (by decide)).trans (hw ▸ changeState_only v .verifying hd)
  have hrec (p : Pos) : w.record p = s.record p := State.record_congr (hframe .roster (by decide)) p
  have hver (p : Pos) : (w.record p).verifiable = true ↔ verifiable p := by rw [hrec, verifiable_iff]
  have htVMIN : w.params.tVMIN = s.params.tVMIN := congrArg Params.tVMIN (hframe .params (by decide))
  have htime : w.time = s.time := hframe .time (by decide)
  have hadopt : (s.setReceiver none).adoption g = w.verifyingEntry := by
    rw [hw, hv]
    exact if_pos ⟨hstate, hg, hsent⟩
  have hwait : w.verifyingEntry = w.verifyingArmed := by
    rw [verifyingEntry_eq]
    refine (passTest_tests _).2 (.inr (verifyingArmed_holds ?_))
    rw [htVMIN]
    exact hset.imp_right fun ⟨p, hp⟩ => ⟨p, (hver p).mpr hp⟩
  have harmed := verifyingArmed_frame w
  refine ⟨w.verifyingArmed, w.verifiedSet, ?_, fun p => mem_verifiedSet.trans (hver p), verifiedSet_ascending w,
    Eq.trans (harmed .engine (by decide)) hengine, ?_, fun p hp => ?_, fun p hp => ?_,
    hraises.after (harmed .port (by decide)), (hframe.more (by decide)).trans (harmed.more (by decide))⟩
  · rw [hexec, hadopt, hwait]
  · show ({ w.publisher with
      verified := some w.verifiedSet, minTimer := some w.time, minElapsed := w.params.tVMIN == 0,
      verDeadline := some w.time } : Publisher) = _
    rw [hpublisher, htVMIN, htime]
    rfl
  · rw [verifyingArmed_record, if_pos ((hver p).mpr hp), hrec]
  · rw [verifyingArmed_record, if_neg fun h => hp ((hver p).mp h), hrec]

/-! ## SUMMARY (R117) -/

theorem resultPayload_eq (r : Option Result) : resultPayload r =
    match r with
    | none => List.replicate 23 0x00
    | some r =>
      [0x01, byteOf r.kind.code, byteOf r.attempt, byteOf r.policy.code, byteOf r.countA,
          byteOf r.countB, byteOf r.countC]
        ++ (match r.key with
            | some k => [0x01, byteOf k.h, byteOf k.i, byteOf k.j]
            | none => [0x00, 0x00, 0x00, 0x00])
        ++ [if r.miss then 0x01 else 0x00] ++ bytes2 r.phiB ++ bytes2 r.phiC ++ bytes2 r.ratio
        ++ bytes2 r.speed ++ bytes2 r.ramp ++ [byteOf r.proving] := by
  rcases r with _ | ⟨kind, attempt, policy, countA, countB, countC, key, miss⟩
  · rfl
  · cases key <;> cases miss <;> rfl

/-- Settles O8: the payload's items are those of R117's table. -/
theorem summaryReportsEngineAndPass : Obligations.SummaryReportsEngineAndPass := by
  rintro tag s e hm rfl full
  refine performs_of hm rfl (op := requestSummary) ?_ rfl
  unfold requestSummary State.reply Reply.done State.summaryPayload
  rw [resultPayload_eq]
  rfl

end Sys2Proof.Machine
end

section
/-! Proofs: the rebalance, stages 1 to 6 (R120 to R130, R135). -/

namespace Sys2Proof.Machine

/-! ## The first k of a list by a weight -/

/-- How many members of a list weigh more than one. -/
def heavier {α : Type} (weight : α → Nat) (l : List α) (a : α) : Nat :=
  (l.filter fun b => decide (weight a < weight b)).length

theorem heavier_lt_length {α : Type} {weight : α → Nat} {l : List α} {a : α} (ha : a ∈ l) :
    heavier weight l a < l.length :=
  List.length_filter_lt_length_iff_exists.mpr ⟨a, ha, by simp⟩

/-- A lighter member has more above it: all that is above the other, and the other itself. -/
theorem heavier_lt_heavier {α : Type} {weight : α → Nat} {l : List α} {a b : α} (hb : b ∈ l)
    (hab : weight a < weight b) : heavier weight l b < heavier weight l a := by
  have hsub : (l.filter fun c => decide (weight b < weight c)) =
      (l.filter fun c => decide (weight a < weight c)).filter fun c => decide (weight b < weight c) := by
    rw [List.filter_filter]
    refine List.filter_congr fun c _ => ?_
    rw [← Bool.decide_and]
    exact decide_eq_decide.mpr ⟨fun h => ⟨h, hab.trans h⟩, And.left⟩
  unfold heavier
  rw [hsub]
  exact List.length_filter_lt_length_iff_exists.mpr ⟨b, List.mem_filter.mpr ⟨hb, by simpa⟩, by simp⟩

/-- With distinct weights the numbers of heavier members are 0 to one below the length, each once. -/
theorem heavier_perm_range {α : Type} {weight : α → Nat} {l : List α} (hl : l.Nodup)
    (hw : ∀ a ∈ l, ∀ b ∈ l, weight a = weight b → a = b) :
    (l.map (heavier weight l)).Perm (List.range l.length) := by
  have hinj : ∀ a ∈ l, ∀ b ∈ l, heavier weight l a = heavier weight l b → a = b := by
    intro a ha b hb h
    rcases Nat.lt_trichotomy (weight a) (weight b) with hlt | heq | hgt
    · exact absurd h (heavier_lt_heavier hb hlt).ne'
    · exact hw a ha b hb heq
    · exact absurd h (heavier_lt_heavier ha hgt).ne
  refine ((hl.map_on hinj).subperm fun n hn => ?_).perm_of_length_le (by simp)
  obtain ⟨a, ha, rfl⟩ := List.mem_map.mp hn
  exact List.mem_range.mpr (heavier_lt_length ha)

/-- So exactly k members, of k at most the length, have fewer than k above them. -/
theorem length_filter_heavier_lt {α : Type} {weight : α → Nat} {l : List α} (hl : l.Nodup)
    (hw : ∀ a ∈ l, ∀ b ∈ l, weight a = weight b → a = b) {k : Nat} (hk : k ≤ l.length) :
    (l.filter fun a => decide (heavier weight l a < k)).length = k := by
  calc (l.filter fun a => decide (heavier weight l a < k)).length
      = ((l.map (heavier weight l)).filter fun n => decide (n < k)).length := by
        rw [List.filter_map, List.length_map]
        rfl
    _ = ((List.range l.length).filter fun n => decide (n < k)).length :=
        ((heavier_perm_range hl hw).filter _).length_eq
    _ = k := by
        obtain ⟨j, hj⟩ := Nat.exists_eq_add_of_le hk
        rw [hj, List.range_add, List.filter_append, List.length_append, List.filter_eq_self.mpr (by simp),
          List.filter_eq_nil_iff.mpr (by simp), List.length_range, List.length_nil, Nat.add_zero]

/-! ## Stage 1: the counts (R120, R121) -/

theorem isActive_eq (st : RecordState) : [.inService, .parked, .probation].contains st = st.active := by
  cases st <;> rfl

theorem candidates_filter (roster : Vector Record 30) (q : Nat) :
    (allPositions.filter fun p => p.val / 10 == q && roster[p].state.active) = candidates roster q := by
  unfold candidates phasePositions
  rw [List.filter_filter]
  exact List.filter_congr fun p _ => Bool.and_comm _ _

theorem mem_candidates {roster : Vector Record 30} {q : Nat} {p : Pos} :
    p ∈ candidates roster q ↔ p.val / 10 = q ∧ roster[p].state.active = true := by
  simp [candidates, phasePositions, allPositions, phaseOf, and_comm]

theorem candidates_nodup (roster : Vector Record 30) (q : Nat) : (candidates roster q).Nodup :=
  (phasePositions_nodup q).filter _

@[simp] theorem Counts.of_zero (n : Counts) : n.of 0 = n.a := rfl
@[simp] theorem Counts.of_one (n : Counts) : n.of 1 = n.b := rfl
@[simp] theorem Counts.of_two (n : Counts) : n.of 2 = n.c := rfl

theorem countsOf_of (roster : Vector Record 30) {q : Nat} (hq : q < 3) :
    (countsOf roster).of q = (candidates roster q).length := by
  interval_cases q <;> rfl

theorem Counts.low_iff (n : Counts) (nMin : Nat) : n.low nMin = true ↔ n.least < nMin := by
  simp only [Counts.low, Counts.least, Bool.or_eq_true, decide_eq_true_iff]
  omega

/-! ## Stages 3 and 4: the sort and the angles (R124, R126) -/

/-- The phases in slots h, i, j. -/
def Slots.order : Slots → Nat × Nat × Nat
  | .abc => (0, 1, 2)
  | .acb => (0, 2, 1)
  | .bac => (1, 0, 2)
  | .bca => (1, 2, 0)
  | .cab => (2, 0, 1)
  | .cba => (2, 1, 0)

/-- Phase u stands before phase v in the sort: the larger count, and of equal counts the earlier phase. -/
def Counts.Precedes (n : Counts) (u v : Nat) : Prop := n.of v < n.of u ∨ (n.of u = n.of v ∧ u < v)

/-- The entry's angle for the pair of phases u and v, with x, y, z in slots h, i, j. -/
def ShiftEntry.pairAngle (e : ShiftEntry) (x y z u v : Nat) : Nat :=
  if (u = x ∧ v = y) ∨ (u = y ∧ v = x) then e.hi
  else if (u = y ∧ v = z) ∨ (u = z ∧ v = y) then e.ij else e.jh

theorem exists_slots {x y z : Nat} (hx : x < 3) (hy : y < 3) (hz : z < 3) (hxy : x ≠ y) (hyz : y ≠ z)
    (hxz : x ≠ z) : ∃ o : Slots, o.order = (x, y, z) := by
  have h : (x, y, z) ∈ [Slots.abc, .acb, .bac, .bca, .cab, .cba].map Slots.order := by
    simp only [Slots.order, List.map_cons, List.map_nil, List.mem_cons, Prod.mk.injEq, List.not_mem_nil]
    omega
  obtain ⟨o, -, ho⟩ := List.mem_map.mp h
  exact ⟨o, ho⟩

/-- The sort finds the one order in which each phase precedes the next. -/
theorem sortSlots_eq {n : Counts} {o : Slots} {x y z : Nat} (ho : o.order = (x, y, z)) (hxy : n.Precedes x y)
    (hyz : n.Precedes y z) : sortSlots n = o := by
  unfold sortSlots
  cases o <;> cases ho <;> simp only [Counts.Precedes, Counts.of_zero, Counts.of_one, Counts.of_two] at hxy hyz
  case abc => rw [if_pos (by omega)]
  case acb => rw [if_neg (by omega), if_pos (by omega)]
  case bac => rw [if_neg (by omega), if_neg (by omega), if_pos (by omega)]
  case bca => rw [if_neg (by omega), if_neg (by omega), if_neg (by omega), if_pos (by omega)]
  case cab => rw [if_neg (by omega), if_neg (by omega), if_neg (by omega), if_neg (by omega), if_pos (by omega)]
  case cba => rw [if_neg (by omega), if_neg (by omega), if_neg (by omega), if_neg (by omega), if_neg (by omega)]

theorem keyOf_eq {n : Counts} {x y z : Nat} (ho : (sortSlots n).order = (x, y, z)) :
    keyOf n = { h := n.of x, i := n.of y, j := n.of z } := by
  unfold keyOf
  cases hs : sortSlots n <;> rw [hs] at ho <;> cases ho <;> rfl

theorem shiftAngles_eq {o : Slots} {x y z : Nat} (ho : o.order = (x, y, z)) (e : ShiftEntry) :
    (shiftAngles o e).ab = e.pairAngle x y z 0 1 ∧ (shiftAngles o e).bc = e.pairAngle x y z 1 2 := by
  cases o <;> cases ho <;> exact ⟨rfl, rfl⟩

/-! ## The choice of policy (R123 to R125) -/

theorem Counts.allEqual_iff (n : Counts) : n.allEqual = true ↔ n.of 0 = n.of 1 ∧ n.of 1 = n.of 2 := by
  simp [Counts.allEqual]

theorem choose_equal {n : Counts} {policy feq : Nat} {table : List ShiftEntry}
    (h : policy ≠ 0 ∨ n.allEqual = true) : choose n policy feq table =
      { policy := .equalize, key := none, miss := false, angles := equalAngles, ratio := feq } := if_pos h

theorem choose_miss {n : Counts} {policy feq : Nat} {table : List ShiftEntry}
    (h : ¬(policy ≠ 0 ∨ n.allEqual = true)) (hf : findShift table (keyOf n) = none) :
    choose n policy feq table =
      { policy := .equalize, key := some (keyOf n), miss := true, angles := equalAngles, ratio := feq } := by
  rw [choose, if_neg h, hf]

theorem choose_hit {n : Counts} {policy feq : Nat} {table : List ShiftEntry} {e : ShiftEntry}
    (h : ¬(policy ≠ 0 ∨ n.allEqual = true)) (hf : findShift table (keyOf n) = some e) :
    choose n policy feq table =
      if feq ≤ e.fsh then
        { policy := .shift, key := some (keyOf n), miss := false, angles := shiftAngles (sortSlots n) e,
          ratio := e.fsh }
      else { policy := .equalize, key := some (keyOf n), miss := false, angles := equalAngles, ratio := feq } := by
  rw [choose, if_neg h, hf]

/-! ## Stage 5: the scale entry (R129) -/

theorem passScale_eq (kind : PassKind) (attempt : Nat) (lower : Bool) (t : Tables) (i : Fin 16)
    (hi : i.val = 2 * (min attempt 8 - 1) + (if lower then 1 else 0)) :
    passScale kind attempt lower t = if kind = .cold then { ramp := 64, proving := 0 } else t.scale[i] := by
  have hplace : scaleIndex attempt lower = i := Fin.ext (by rw [hi, min_comm]; rfl)
  cases kind
  case cold => rfl
  case restart => exact congrArg (fun j : Fin 16 => t.scale[j]) hplace

/-! ## Stage 6: the parked set (R130) -/

/-- The order of R130 as one number: the tally first, then the rank, which is at most 10. -/
def parkWeight (roster : Vector Record 30) (p : Pos) : Nat := 11 * roster[p].tally + rankOf p

theorem parksBefore_iff (roster : Vector Record 30) (p q : Pos) :
    parksBefore roster p q = true ↔ parkWeight roster q < parkWeight roster p := by
  simp only [parksBefore, Bool.or_eq_true, Bool.and_eq_true, decide_eq_true_iff, beq_iff_eq]
  unfold parkWeight rankOf
  omega

/-- In one phase no two positions weigh the same. -/
theorem parkWeight_inj {roster : Vector Record 30} {p q : Pos} (hphase : p.val / 10 = q.val / 10)
    (h : parkWeight roster p = parkWeight roster q) : p = q := by
  unfold parkWeight rankOf at h
  have htally : roster[p].tally = roster[q].tally := by omega
  exact Fin.ext (by omega)

theorem isParked_iff {roster : Vector Record 30} {m : Nat} {p : Pos} :
    isParked roster m p = true ↔ roster[p].state.active = true ∧
      heavier (parkWeight roster) (candidates roster (p.val / 10)) p <
        (candidates roster (p.val / 10)).length - m := by
  have hb (q : Pos) : parksBefore roster q p = decide (parkWeight roster p < parkWeight roster q) := by
    rw [Bool.eq_iff_iff, parksBefore_iff, decide_eq_true_iff]
  simp only [isParked, hb, Bool.and_eq_true, List.contains_iff_mem, mem_candidates, decide_eq_true_iff, phaseOf,
    true_and, heavier]

theorem mem_parkedSet {roster : Vector Record 30} {m : Nat} {p : Pos} :
    p ∈ parkedSet roster .equalize m ↔ isParked roster m p = true := by
  simp [parkedSet, allPositions]

theorem parkedSet_active {roster : Vector Record 30} {m : Nat} {p : Pos} (h : p ∈ parkedSet roster .equalize m) :
    roster[p].state.active = true :=
  (isParked_iff.mp (mem_parkedSet.mp h)).1

/-- The parked records of one phase are its candidates with fewer than n − m above them, n − m of them. -/
theorem parkedSet_count (roster : Vector Record 30) (m q : Nat) :
    ((parkedSet roster .equalize m).filter fun p => p.val / 10 == q).length =
      (candidates roster q).length - m := by
  have hset : ((parkedSet roster .equalize m).filter fun p => p.val / 10 == q) =
      (candidates roster q).filter fun p => decide
        (heavier (parkWeight roster) (candidates roster q) p < (candidates roster q).length - m) := by
    rw [← candidates_filter]
    simp only [parkedSet, List.filter_filter]
    refine List.filter_congr fun p _ => ?_
    rw [Bool.eq_iff_iff]
    simp only [Bool.and_eq_true, beq_iff_eq, decide_eq_true_iff, isParked_iff, candidates_filter]
    constructor
    · rintro ⟨rfl, ha, hk⟩
      exact ⟨hk, rfl, ha⟩
    · rintro ⟨hk, rfl, ha⟩
      exact ⟨rfl, ha, hk⟩
  rw [hset]
  refine length_filter_heavier_lt (candidates_nodup roster q) (fun a ha b hb h => ?_) (Nat.sub_le _ _)
  exact parkWeight_inj ((mem_candidates.mp ha).1.trans (mem_candidates.mp hb).1.symm) h

/-- A parked record weighs more than a candidate of its phase that is not parked. -/
theorem parkedSet_highest {roster : Vector Record 30} {m : Nat} {p p' : Pos}
    (hp : p ∈ parkedSet roster .equalize m) (hphase : p'.val / 10 = p.val / 10)
    (ha : roster[p'].state.active = true) (hp' : p' ∉ parkedSet roster .equalize m) :
    roster[p'].tally < roster[p].tally ∨ (roster[p'].tally = roster[p].tally ∧ p'.val < p.val) := by
  obtain ⟨-, hk⟩ := isParked_iff.mp (mem_parkedSet.mp hp)
  rw [mem_parkedSet, isParked_iff, hphase] at hp'
  have hweight : ¬parkWeight roster p < parkWeight roster p' := fun h =>
    hp' ⟨ha, (heavier_lt_heavier (mem_candidates.mpr ⟨hphase, ha⟩) h).trans hk⟩
  have hne : parkWeight roster p ≠ parkWeight roster p' := fun h => by
    cases parkWeight_inj hphase.symm h
    exact hp' ⟨ha, hk⟩
  simp only [parkWeight, rankOf] at hweight hne
  omega

/-! ## The stages together -/

theorem rebalance_low {roster : Vector Record 30} {ps : Params} (tables : Tables) (kind : PassKind)
    (attempt : Nat) (lower : Bool) (h : (countsOf roster).least < ps.nMin) :
    rebalance roster ps tables kind attempt lower = .lockout .countLow false :=
  if_pos ((Counts.low_iff _ _).mpr h)

/-- Stage 5's test and the result record, with what stages 3 and 4 chose (R127, R128, R135). -/
theorem rebalance_eq {roster : Vector Record 30} {ps : Params} {tables : Tables} (kind : PassKind)
    (attempt : Nat) (lower : Bool) {n : Counts} {c : Choice} (hn : countsOf roster = n)
    (hlow : ps.nMin ≤ n.least)
    (hc : choose n ps.policy (equalizeRatio n.least ps.nRated) tables.shift = c) :
    rebalance roster ps tables kind attempt lower =
      if speedLimit c.ratio ps.mV < ps.sFloor then .lockout .ratingLow c.miss
      else
        .commit
          { kind := kind, attempt := attempt, policy := c.policy, countA := n.a, countB := n.b,
            countC := n.c, key := c.key, miss := c.miss, phiB := c.angles.ab,
            phiC := c.angles.ab + c.angles.bc, ratio := c.ratio, speed := speedLimit c.ratio ps.mV,
            ramp := rampRate ps.rBase (passScale kind attempt lower tables).ramp,
            proving := (passScale kind attempt lower tables).proving }
          (parkedSet roster c.policy n.least) := by
  subst hn hc
  exact if_neg fun h => absurd ((Counts.low_iff _ _).mp h) (Nat.not_lt.mpr hlow)

/-- Settles O52: COUNT_LOW by the least count; then each choice of policy by `choose`, with `rebalance_eq` for the
rating and the record and the lemmas of `parkedSet` for the parking. -/
theorem rebalanceFollowsTheStages : Obligations.RebalanceFollowsTheStages := by
  intro roster ps tables kind attempt lower isActive phase n least feq outcome ends
  have hactive (p : Pos) : isActive p = roster[p].state.active := isActive_eq _
  have hphase (q : Nat) : phase q = candidates roster q := by
    simp only [phase, hactive, candidates_filter]
  obtain ⟨m, hm⟩ : ∃ m, countsOf roster = m := ⟨_, rfl⟩
  have hof {q : Nat} (hq : q < 3) : n q = m.of q := by rw [← hm, countsOf_of roster hq, ← hphase]
  have ha : n 0 = m.a := hof (by decide)
  have hb : n 1 = m.b := hof (by decide)
  have hcount : n 2 = m.c := hof (by decide)
  have hleast : least = m.least := by simp only [least, ha, hb, hcount, Counts.least]
  have hfeq : feq = equalizeRatio m.least ps.nRated := by simp only [feq, hleast, equalizeRatio]
  have hends (hlow : ps.nMin ≤ least) {policy : PolicyUsed} {key : Option Key} {miss : Bool} {angles : Angles}
      {ratio : Nat} (hc : choose m ps.policy feq tables.shift = ⟨policy, key, miss, angles, ratio⟩) :
      ends policy key miss angles.ab (angles.ab + angles.bc) ratio := by
    have hout := rebalance_eq kind attempt lower hm (hleast ▸ hlow) (hfeq ▸ hc)
    refine ⟨fun hs => hout.trans (if_pos hs), fun hs i scale hi hscale => ?_⟩
    refine ⟨parkedSet roster policy m.least, ?_, fun hp => ?_, fun hp => ?_⟩
    · rw [hscale, ← passScale_eq kind attempt lower tables i hi, ha, hb, hcount]
      exact hout.trans (if_neg (Nat.not_lt.mpr hs))
    · rw [hp]
      rfl
    · rw [hp]
      refine ⟨(List.nodup_finRange 30).filter _, fun p h => ?_, fun q _ => ?_, fun p h p' hq hact h' => ?_⟩
      · rw [hactive]
        exact parkedSet_active h
      · rw [parkedSet_count, ← hphase, hleast]
      · rw [hactive] at hact
        exact parkedSet_highest h hq hact h'
  have hequal : m.allEqual = true ↔ n 0 = n 1 ∧ n 1 = n 2 := by
    rw [m.allEqual_iff, hof (by decide), hof (by decide), hof (by decide)]
  refine ⟨fun hlow => ?_, fun hlow hpol => hends hlow (choose_equal (hpol.imp_right hequal.mpr)),
    fun hlow hpol hne x y z hx hy hz hxy hyz hxz hbefore hafter => ?_⟩
  · exact rebalance_low tables kind attempt lower (by rwa [hm, ← hleast])
  intro key angle
  have hlook : ¬(ps.policy ≠ 0 ∨ m.allEqual = true) := fun h => h.elim (· hpol) (hne ∘ hequal.mp)
  obtain ⟨o, ho⟩ := exists_slots hx hy hz hxy hyz hxz
  rw [hof hx, hof hy] at hbefore
  rw [hof hy, hof hz] at hafter
  have hsort : sortSlots m = o := sortSlots_eq ho hbefore hafter
  have hkey : keyOf m = key := by
    simp only [key, hof hx, hof hy, hof hz]
    exact keyOf_eq (hsort ▸ ho)
  refine ⟨fun hmiss => ?_, fun e hhit => ?_⟩
  · rw [← hkey] at hmiss ⊢
    exact hends hlow (choose_miss hlook hmiss)
  · rw [← hkey] at hhit ⊢
    have hchoice := choose_hit (feq := feq) hlook hhit
    refine ⟨fun hless => hends hlow (hchoice.trans (if_neg (Nat.not_le.mpr hless))), fun hmore => ?_⟩
    have hshift := hends hlow (hchoice.trans (if_pos hmore))
    obtain ⟨hab, hbc⟩ := shiftAngles_eq ho e
    rw [hsort, hab, hbc] at hshift
    exact hshift

end Sys2Proof.Machine
end

section
/-! Proofs: the requests on the rating tables, those of the shift table (R139 to R144, R148) and those of the scale
table (R145 to R147). -/

namespace Sys2Proof.Machine

/-! ## The lookup and the ordinal of a shift table (R139, R150) -/

theorem findShift_eq_none {l : List ShiftEntry} {k : Key} (h : ∀ e ∈ l, e.key ≠ k) : findShift l k = none :=
  List.find?_eq_none.mpr fun e he => by simpa using h e he

theorem findShift_key {l : List ShiftEntry} {k : Key} {e : ShiftEntry} (h : findShift l k = some e) : e.key = k := by
  simpa using List.find?_some h

theorem Key.not_below_of_below {a b : Key} (h : a.below b = true) : ¬b.below a = true := by
  rw [Key.below_iff] at *
  omega

/-- A table in key order holds no key twice (R139). -/
theorem ascending_nodup_keys {l : List ShiftEntry} (h : l.Pairwise fun a b => a.key.below b.key = true) :
    (l.map (·.key)).Nodup := by
  refine ((ascending_iff_keys l).mp h).imp fun {a b} hab heq => ?_
  subst heq
  exact Key.not_below_of_below hab hab

/-- In a table in key order the lookup of a key finds the one entry that has it. -/
theorem findShift_of_mem {l : List ShiftEntry} (h : l.Pairwise fun a b => a.key.below b.key = true)
    {e : ShiftEntry} (he : e ∈ l) : findShift l e.key = some e := by
  obtain ⟨x, hx⟩ := Option.isSome_iff_exists.mp ((findShift_isSome l e.key).mpr ⟨e, he, rfl⟩)
  have hxe : x = e :=
    List.inj_on_of_nodup_map (ascending_nodup_keys h) (List.mem_of_find?_eq_some hx) he (findShift_key hx)
  rw [hx, hxe]

/-- In a table in key order the ordinal of an entry is its place (R139). -/
theorem ordinalOf_getElem {l : List ShiftEntry} (h : l.Pairwise fun a b => a.key.below b.key = true)
    {n : Nat} {e : ShiftEntry} (he : l[n]? = some e) : ordinalOf e.key l = n := by
  unfold ordinalOf
  induction l generalizing n with
  | nil => cases he
  | cons x xs ih =>
    obtain ⟨hx, hxs⟩ := List.pairwise_cons.mp h
    cases n with
    | zero =>
      obtain rfl : x = e := by simpa using he
      rw [List.length_eq_zero_iff, List.filter_eq_nil_iff]
      intro y hy
      rcases List.mem_cons.mp hy with rfl | hy
      · exact fun hyy => Key.not_below_of_below hyy hyy
      · exact Key.not_below_of_below (hx y hy)
    | succ m =>
      have he' : xs[m]? = some e := by simpa using he
      have hbelow : x.key.below e.key = true := hx e (List.mem_of_getElem? he')
      rw [List.filter_cons, if_pos hbelow, List.length_cons, ih hxs he']

/-! ## An entry put (R142) -/

theorem insertShift_eq_append (e : ShiftEntry) (l : List ShiftEntry) :
    ∃ lower higher, l = lower ++ higher ∧ insertShift e l = lower ++ e :: higher := by
  induction l with
  | nil => exact ⟨[], [], rfl, rfl⟩
  | cons x xs ih =>
    unfold insertShift
    split
    · exact ⟨[], x :: xs, rfl, rfl⟩
    · obtain ⟨lower, higher, hl, hput⟩ := ih
      exact ⟨x :: lower, higher, congrArg (x :: ·) hl, congrArg (x :: ·) hput⟩

theorem findShift_insertShift {e : ShiftEntry} {l : List ShiftEntry} (hnew : findShift l e.key = none) (k : Key) :
    findShift (insertShift e l) k = if e.key = k then some e else findShift l k := by
  obtain ⟨lower, higher, rfl, hput⟩ := insertShift_eq_append e l
  rw [hput]
  unfold findShift at *
  rw [List.find?_append] at *
  split
  · next hk =>
    subst hk
    rw [(Option.or_eq_none_iff.mp hnew).1, List.find?_cons_of_pos (by simp), Option.none_or]
  · next hk => rw [List.find?_cons_of_neg (by simpa using hk), ← List.find?_append]

theorem findShift_replaceShift {e : ShiftEntry} {l : List ShiftEntry} (hold : (findShift l e.key).isSome = true)
    (k : Key) : findShift (replaceShift e l) k = if e.key = k then some e else findShift l k := by
  have hkeys : ((fun x : ShiftEntry => x.key == k) ∘ fun x => if x.key = e.key then e else x) =
      fun x => x.key == k := by
    funext x
    dsimp only [Function.comp]
    split
    · next hx => rw [hx]
    · rfl
  have hmap : findShift (replaceShift e l) k =
      (findShift l k).map fun x => if x.key = e.key then e else x := by
    unfold findShift replaceShift
    rw [List.find?_map, hkeys]
  rw [hmap]
  cases hf : findShift l k with
  | none =>
    have hk : e.key ≠ k := by
      rintro rfl
      rw [hf] at hold
      cases hold
    rw [if_neg hk, Option.map_none]
  | some x =>
    rw [Option.map_some, findShift_key hf]
    by_cases hk : e.key = k
    · rw [if_pos hk.symm, if_pos hk]
    · rw [if_neg (Ne.symm hk), if_neg hk]

/-- The table after a load: the entry of a present key replaced, that of a new key inserted (R142). -/
def putShift (e : ShiftEntry) (l : List ShiftEntry) : List ShiftEntry :=
  if (findShift l e.key).isSome then replaceShift e l else insertShift e l

theorem findShift_putShift (e : ShiftEntry) (l : List ShiftEntry) (k : Key) :
    findShift (putShift e l) k = if e.key = k then some e else findShift l k := by
  unfold putShift
  split
  · next hold => exact findShift_replaceShift hold k
  · next hnew => exact findShift_insertShift (by simpa using hnew) k

theorem putShift_length_present {e : ShiftEntry} {l : List ShiftEntry} (h : (findShift l e.key).isSome = true) :
    (putShift e l).length = l.length := by
  rw [putShift, if_pos h, replaceShift, List.length_map]

theorem putShift_length_new {e : ShiftEntry} {l : List ShiftEntry} (h : ¬(findShift l e.key).isSome = true) :
    (putShift e l).length = l.length + 1 := by
  rw [putShift, if_neg h, insertShift_length]

/-! ## LOAD_SHIFT (R140 to R142, R148) -/

theorem requestLoadShift_badArgument {h i j : Byte} {hi ij jh : BitVec 16}
    (hbad : ¬((keyOfBytes h i j).valid = true ∧ anglesWellFormed hi.toNat ij.toNat jh.toNat = true))
    (fsh : BitVec 16) (s : State) :
    requestLoadShift h i j hi ij jh fsh s = s.reply (.refusal .badArgument) :=
  if_pos (by simpa [imp_iff_not_or] using hbad)

section
variable {h i j : Byte} {hi ij jh : BitVec 16} {s : State}
  (hsound : (keyOfBytes h i j).valid = true ∧ anglesWellFormed hi.toNat ij.toNat jh.toNat = true)
include hsound

theorem requestLoadShift_wrongMode (hmode : ¬s.engine.state.amends = true) (fsh : BitVec 16) :
    requestLoadShift h i j hi ij jh fsh s = s.reply (.refusal .wrongMode) :=
  (if_neg (by simp [hsound])).trans (if_pos (by simpa using hmode))

theorem requestLoadShift_full (hmode : s.engine.state.amends = true)
    (hnew : ¬(findShift s.tables.shift (keyOfBytes h i j)).isSome = true) (hfull : 64 ≤ s.tables.shift.length)
    (fsh : BitVec 16) : requestLoadShift h i j hi ij jh fsh s = s.reply (.refusal .full) :=
  (if_neg (by simp [hsound])).trans <| (if_neg (by simp [hmode])).trans <|
    if_pos (by simp [hnew, Config.shiftCapacity, hfull])

theorem requestLoadShift_accepted (hmode : s.engine.state.amends = true)
    (hroom : (findShift s.tables.shift (keyOfBytes h i j)).isSome = true ∨ s.tables.shift.length < 64)
    (fsh : BitVec 16) {e : ShiftEntry}
    (he : e = ⟨keyOfBytes h i j, hi.toNat, ij.toNat, jh.toNat, min fsh.toNat 10000⟩) :
    requestLoadShift h i j hi ij jh fsh s =
      { reply :=
          { code := if 10000 < fsh.toNat then .clamped else .done
            payload := [byteOf (ordinalOf e.key (putShift e s.tables.shift)),
                byteOf (putShift e s.tables.shift).length,
                byteOf (bitCode (findShift s.tables.shift e.key).isSome)] ++ bytes2 e.fsh }
        state := s.setShift (putShift e s.tables.shift) } := by
  subst he
  rw [min_comm]
  refine (if_neg (by simp [hsound])).trans <| (if_neg (by simp [hmode])).trans <| if_neg ?_
  rcases hroom with hold | hless
  · simp [hold]
  · simp [Config.shiftCapacity, Nat.not_le.mpr hless]

end

/-- Settles O19: each refusal by the first check that fails, and the table after an accepted load is `putShift`. -/
theorem loadShiftPutsTheEntry : Obligations.LoadShiftPutsTheEntry := by
  intro tag h i j hi ij jh fsh s hm c k sound amends present
  have hamends : s.engine.state.amends = true ↔ amends := amends_iff _
  have hpresent : (findShift s.tables.shift k).isSome = true ↔ present := findShift_isSome _ _
  refine ⟨fun hbad => refuses_of hm rfl (requestLoadShift_badArgument hbad fsh s),
    fun hs hmode => refuses_of hm rfl (requestLoadShift_wrongMode hs (mt hamends.mp hmode) fsh),
    fun hs hmode hnew hfull => refuses_of hm rfl
      (requestLoadShift_full hs (hamends.mpr hmode) (mt hpresent.mp hnew) hfull fsh),
    fun hs hmode hroom => ?_⟩
  obtain ⟨e, he⟩ : ∃ e : ShiftEntry, e = ⟨k, hi.toNat, ij.toNat, jh.toNat, min fsh.toNat 10000⟩ := ⟨_, rfl⟩
  have hkey : e.key = k := he ▸ rfl
  have hratio : e.fsh = min fsh.toNat 10000 := he ▸ rfl
  have hrun := requestLoadShift_accepted hs (hamends.mpr hmode) (hroom.imp_left hpresent.mpr) fsh he
  rw [hkey, hratio] at hrun
  refine ⟨putShift e s.tables.shift, bitCode (findShift s.tables.shift k).isSome, performs_of hm rfl hrun rfl,
    ?_, fun k' hk' => ?_, fun hold => ?_, fun hnew => ?_⟩
  · rw [findShift_putShift, if_pos hkey, he]
  · rw [findShift_putShift, hkey, if_neg hk'.symm]
  · have hfound := hpresent.mpr hold
    exact ⟨congrArg bitCode hfound, putShift_length_present (hkey ▸ hfound)⟩
  · have hmissed := mt hpresent.mp hnew
    exact ⟨congrArg bitCode (Bool.eq_false_iff.mpr hmissed), putShift_length_new (hkey ▸ hmissed)⟩

/-! ## DROP_SHIFT (R143) -/

theorem findShift_dropped (l : List ShiftEntry) (k k' : Key) :
    findShift (l.filter fun e => !(e.key == k)) k' = if k' = k then none else findShift l k' := by
  unfold findShift
  rw [List.find?_filter]
  split
  · next hk => exact List.find?_eq_none.mpr fun e _ => by simp [hk]
  · next hk =>
    congr 1
    funext e
    by_cases he : e.key = k' <;> simp [he, hk]

/-- Of a table in key order one entry goes with a key that it holds. -/
theorem dropped_length {l : List ShiftEntry} (h : l.Pairwise fun a b => a.key.below b.key = true) {k : Key}
    (hk : ∃ e ∈ l, e.key = k) : (l.filter fun e => !(e.key == k)).length + 1 = l.length := by
  have hone : (l.filter fun e => e.key == k).length = 1 := by
    have hcount := List.count_eq_one_of_mem (ascending_nodup_keys h) (List.mem_map.mpr hk)
    rwa [List.count, List.countP_map, List.countP_eq_length_filter] at hcount
  have hsplit := List.length_eq_length_filter_add (l := l) fun e => e.key == k
  omega

section
variable {h i j : Byte} {s : State} (hvalid : (keyOfBytes h i j).valid = true)
include hvalid

theorem requestDropShift_wrongMode (hmode : ¬s.engine.state.amends = true) :
    requestDropShift h i j s = s.reply (.refusal .wrongMode) :=
  (if_neg (by simp [hvalid])).trans (if_pos (by simpa using hmode))

theorem requestDropShift_notFound (hmode : s.engine.state.amends = true)
    (hnew : ¬(findShift s.tables.shift (keyOfBytes h i j)).isSome = true) :
    requestDropShift h i j s = s.reply (.refusal .notFound) :=
  (if_neg (by simp [hvalid])).trans <| (if_neg (by simp [hmode])).trans <| if_pos (by simpa using hnew)

theorem requestDropShift_accepted (hmode : s.engine.state.amends = true)
    (hold : (findShift s.tables.shift (keyOfBytes h i j)).isSome = true) :
    requestDropShift h i j s =
      let l := s.tables.shift.filter fun e => !(e.key == keyOfBytes h i j)
      { reply := .done [byteOf l.length], state := s.setShift l } :=
  (if_neg (by simp [hvalid])).trans <| (if_neg (by simp [hmode])).trans <|
    if_neg (by simpa [← Option.isSome_iff_ne_none] using hold)

end

/-- Settles O20: each refusal by the first check that fails; of the sound table the one entry of the key goes. -/
theorem dropShiftRemovesTheEntry : Obligations.DropShiftRemovesTheEntry := by
  intro tag h i j s hm hs c k amends present
  have hamends : s.engine.state.amends = true ↔ amends := amends_iff _
  have hpresent : (findShift s.tables.shift k).isSome = true ↔ present := findShift_isSome _ _
  refine ⟨fun hbad => refuses_of hm rfl (if_pos (congrArg not hbad)),
    fun hv hmode => refuses_of hm rfl (requestDropShift_wrongMode hv (mt hamends.mp hmode)),
    fun hv hmode hnew => refuses_of hm rfl
      (requestDropShift_notFound hv (hamends.mpr hmode) (mt hpresent.mp hnew)),
    fun hv hmode hold => ⟨s.tables.shift.filter fun e => !(e.key == k), performs_of hm rfl
      (requestDropShift_accepted hv (hamends.mpr hmode) (hpresent.mpr hold)) rfl,
      dropped_length hs.ascending hold, ?_, fun k' hk' => ?_⟩⟩
  · rw [findShift_dropped, if_pos rfl]
  · rw [findShift_dropped, if_neg hk']

/-! ## READ_SHIFT (R144) -/

theorem requestReadShift_otherSelector {selector : Byte} (h : 1 < selector.toNat) (a b c : Byte) (s : State) :
    requestReadShift selector a b c s = s.reply (.refusal .badArgument) := by
  unfold requestReadShift
  split
  · next h0 => omega
  · next h1 => omega
  · rfl

/-- The answer to a lookup, by key or by ordinal, from what it finds in the table (R144). -/
def shiftReply (l : List ShiftEntry) : Option ShiftEntry → Reply
  | some e => .done (shiftPayload l e)
  | none => shiftMissing l

theorem requestReadShift_key {a b c : Byte} {k : Key} (hk : keyOfBytes a b c = k) (hv : k.valid = true)
    (s : State) :
    requestReadShift 0 a b c s = s.reply (shiftReply s.tables.shift (findShift s.tables.shift k)) := by
  subst hk
  refine (if_neg (by simp [hv])).trans ?_
  cases findShift s.tables.shift (keyOfBytes a b c) <;> rfl

theorem requestReadShift_ordinal {a : Byte} (ha : a.toNat ≤ 63) (b c : Byte) (s : State) :
    requestReadShift 1 a b c s = s.reply (shiftReply s.tables.shift s.tables.shift[a.toNat]?) := by
  refine (if_neg (Nat.not_lt.mpr ha)).trans ?_
  cases s.tables.shift[a.toNat]? <;> rfl

/-- Settles O10: the sound table finds each entry under its key, and its ordinal is its place. -/
theorem readShiftSelectsByKeyOrOrdinal : Obligations.ReadShiftSelectsByKeyOrOrdinal := by
  intro tag a b c s hm hs k found
  have hkey : keyOfBytes a b c = k := rfl
  have hpayload {n : Nat} {e : ShiftEntry} (he : s.tables.shift[n]? = some e) :
      shiftPayload s.tables.shift e = found n e := by
    unfold shiftPayload
    rw [ordinalOf_getElem hs.ascending he]
    rfl
  refine ⟨fun hbad => refuses_of hm rfl (if_pos (congrArg not hbad)),
    fun hv hnone => performs_of hm rfl ?_ rfl, fun hv n e he hk => performs_of hm rfl ?_ rfl,
    fun hbad => refuses_of hm rfl (if_pos hbad), fun ha hlen => performs_of hm rfl ?_ rfl,
    fun ha e he => performs_of hm rfl ?_ rfl,
    fun kind hkind => refuses_of hm rfl (requestReadShift_otherSelector hkind a b c s)⟩
  · rw [requestReadShift_key hkey hv, findShift_eq_none hnone]
    rfl
  · have hfind : findShift s.tables.shift k = some e :=
      hk ▸ findShift_of_mem hs.ascending (List.mem_of_getElem? he)
    rw [requestReadShift_key hkey hv, hfind, ← hpayload he]
    rfl
  · rw [requestReadShift_ordinal ha, List.getElem?_eq_none hlen]
    rfl
  · rw [requestReadShift_ordinal ha, he, ← hpayload he]
    rfl

/-! ## LOAD_SCALE and READ_SCALE (R145 to R147) -/

theorem scaleArgumentsValid_iff {attempt direction : Byte} : scaleArgumentsValid attempt direction = true ↔
    1 ≤ attempt.toNat ∧ attempt.toNat ≤ 15 ∧ direction.toNat ≤ 1 := decide_eq_true_iff

/-- The entry that an attempt and a direction address (R145). -/
theorem scaleIndex_eq_iff {direction : Byte} (hd : direction.toNat ≤ 1) (attempt : Byte) (i : Fin 16) :
    scaleIndex attempt.toNat (direction.toNat == 1) = i ↔
      i.val = 2 * (min attempt.toNat 8 - 1) + direction.toNat := by
  have hbit : bitCode (direction.toNat == 1) = direction.toNat := by
    rcases Nat.le_one_iff_eq_zero_or_eq_one.mp hd with h | h <;> rw [h] <;> rfl
  have hval : (scaleIndex attempt.toNat (direction.toNat == 1)).val =
      2 * (min 8 attempt.toNat - 1) + bitCode (direction.toNat == 1) := rfl
  rw [Fin.ext_iff, hval, hbit, min_comm, eq_comm]

/-- The items that both requests on the scale table answer (R146, R147). -/
theorem scalePayload_eq (attempt direction : Byte) (ramp proving : Nat) :
    item1 (min 8 attempt.toNat) ++ item1 direction.toNat ++ item1 ramp ++ item1 proving =
      [byteOf (min attempt.toNat 8), direction, byteOf ramp, byteOf proving] := by
  simp [item1, byteOf, min_comm]

theorem clampTo_eq_ite {lo hi : Nat} (h : lo ≤ hi) (v : Nat) :
    clampTo lo hi v = if v < lo then lo else if hi < v then hi else v := by
  unfold clampTo
  split_ifs <;> omega

theorem requestLoadScale_badArgument {attempt direction : Byte}
    (hbad : ¬scaleArgumentsValid attempt direction = true) (ramp proving : Byte) (s : State) :
    requestLoadScale attempt direction ramp proving s = s.reply (.refusal .badArgument) :=
  if_pos (by simpa using hbad)

section
variable {attempt direction : Byte} {s : State} (hvalid : scaleArgumentsValid attempt direction = true)
include hvalid

theorem requestLoadScale_wrongMode (hmode : ¬s.engine.state.amends = true) (ramp proving : Byte) :
    requestLoadScale attempt direction ramp proving s = s.reply (.refusal .wrongMode) :=
  (if_neg (by simp [hvalid])).trans (if_pos (by simpa using hmode))

theorem requestLoadScale_accepted (hmode : s.engine.state.amends = true) (ramp proving : Byte) :
    requestLoadScale attempt direction ramp proving s =
      let e : ScaleEntry := { ramp := clampTo 1 64 ramp.toNat, proving := clampTo 20 150 proving.toNat }
      { reply :=
          { code := if e.ramp = ramp.toNat ∧ e.proving = proving.toNat then .done else .clamped
            payload := item1 (min 8 attempt.toNat) ++ item1 direction.toNat ++ item1 e.ramp ++ item1 e.proving }
        state := s.setTables { s.tables with
          scale := s.tables.scale.set (scaleIndex attempt.toNat (direction.toNat == 1)) e } } :=
  (if_neg (by simp [hvalid])).trans (if_neg (by simp [hmode]))

theorem requestReadScale_valid : requestReadScale attempt direction s =
    let e := s.tables.scale[scaleIndex attempt.toNat (direction.toNat == 1)]
    s.reply (.done (item1 (min 8 attempt.toNat) ++ item1 direction.toNat ++ item1 e.ramp ++ item1 e.proving)) :=
  if_neg (by simp [hvalid])

end

/-- Settles O21: the place written is the one that `scaleIndex_eq_iff` addresses. -/
theorem loadScaleWritesTheEntry : Obligations.LoadScaleWritesTheEntry := by
  intro tag attempt direction ramp proving s hm c valid amends
  have hamends : s.engine.state.amends = true ↔ amends := amends_iff _
  refine ⟨fun hbad => refuses_of hm rfl
      (requestLoadScale_badArgument (mt scaleArgumentsValid_iff.mp hbad) ramp proving s),
    fun hv hmode => refuses_of hm rfl
      (requestLoadScale_wrongMode (scaleArgumentsValid_iff.mpr hv) (mt hamends.mp hmode) ramp proving),
    fun hv hmode => ?_⟩
  have hd : direction.toNat ≤ 1 := hv.2.2
  refine ⟨s.tables.scale.set (scaleIndex attempt.toNat (direction.toNat == 1))
      ⟨clampTo 1 64 ramp.toNat, clampTo 20 150 proving.toNat⟩, clampTo 1 64 ramp.toNat,
    clampTo 20 150 proving.toNat, ?_, clampTo_eq_ite (by decide) _, performs_of hm rfl ?_ rfl,
    fun i hi => ?_, fun i hi => ?_⟩
  · rw [clampTo_eq_ite (by decide)]
    simp only [Nat.lt_one_iff]
  · rw [← scalePayload_eq]
    exact requestLoadScale_accepted (scaleArgumentsValid_iff.mpr hv) (hamends.mpr hmode) ramp proving
  · obtain rfl := (scaleIndex_eq_iff hd attempt i).mpr hi
    exact Vector.getElem_set_self _
  · exact Vector.getElem_set_ne _ _ fun he => hi ((scaleIndex_eq_iff hd attempt i).mp (Fin.ext he))

/-- Settles O9: the entry read is the one that `scaleIndex_eq_iff` addresses. -/
theorem readScaleReturnsTheEntry : Obligations.ReadScaleReturnsTheEntry := by
  refine ⟨fun tag attempt direction s hm => ⟨fun i hlo hhi hd hi => performs_of hm rfl ?_ rfl,
    fun hbad => refuses_of hm rfl (if_pos ?_)⟩, fun i => ?_⟩
  · rw [← scalePayload_eq, ← (scaleIndex_eq_iff hd attempt i).mpr hi]
    exact requestReadScale_valid (scaleArgumentsValid_iff.mpr ⟨hlo, hhi, hd⟩)
  · rw [Bool.not_eq_true', ← Bool.not_eq_true, scaleArgumentsValid_iff]
    omega
  · exact Vector.getElem_replicate _

end Sys2Proof.Machine
end

section
/-! Proofs: the frames of the modulation link, the set frames sent (R152, R153, R155) and the adoption frames
received (R156, R201, R203). -/

namespace Sys2Proof.Machine

/-! ## The layout of a set frame (R153, R201, R203) -/

/-- The words of one phase: a count, then rank and carrier offset of each pair (R153). -/
theorem pairWords_eq (l : List (Nat × Nat)) : pairWords l =
    byteOf l.length :: (l.map fun x => [byteOf x.1, byteOf (x.2 / 256), byteOf x.2]).flatten := rfl

theorem pairWords_length (l : List (Nat × Nat)) : (pairWords l).length = 1 + 3 * l.length := by
  have hpair : ((l.map fun x => [byteOf x.1, byteOf (x.2 / 256), byteOf x.2]).map List.length) =
      List.replicate l.length 3 := by
    rw [List.map_map]
    exact List.map_eq_replicate_iff.mpr fun _ _ => rfl
  rw [pairWords_eq, List.length_cons, List.length_flatten, hpair, List.sum_replicate, smul_eq_mul]
  omega

theorem setFrame_length (generation : BitVec 16) (r : Result) (a b c : List (Nat × Nat)) :
    (setFrame generation r a b c).length = 20 + 3 * (a.length + b.length + c.length) := by
  have hbody : (setFrameBody generation r a b c).length =
      15 + (pairWords a).length + (pairWords b).length + (pairWords c).length := by
    simp [setFrameBody, bytes2, item1]
    omega
  rw [pairWords_length, pairWords_length, pairWords_length] at hbody
  have hframe : (setFrame generation r a b c).length = (setFrameBody generation r a b c).length + 2 :=
    List.length_append
  omega

/-! ## The pairs of a phase (R153) -/

theorem mem_phasePositions {q : Nat} {p : Pos} : p ∈ phasePositions q ↔ p.val / 10 = q := by
  simp [phasePositions, allPositions, phaseOf]

/-- The pairs of a phase are those of its records that hold an offset. -/
theorem mem_pairs {s : State} {q rank offset : Nat} : (rank, offset) ∈ s.pairs q ↔
    ∃ p : Pos, p.val / 10 = q ∧ p.val % 10 + 1 = rank ∧ (s.record p).offset = some offset := by
  unfold State.pairs rankOf
  simp only [List.mem_filterMap, mem_phasePositions, Option.map_eq_some_iff, Prod.mk.injEq]
  refine exists_congr fun p => and_congr_right fun _ => ⟨?_, fun ⟨hrank, hoff⟩ => ⟨offset, hoff, hrank, rfl⟩⟩
  rintro ⟨o, hoff, hrank, rfl⟩
  exact ⟨hrank, hoff⟩

/-- The pairs of a phase stand in ascending rank, as its positions do. -/
theorem pairs_ascending (s : State) (q : Nat) : (s.pairs q).Pairwise fun x y => x.1 < y.1 := by
  have hpos : (phasePositions q).Pairwise (· < ·) := (List.pairwise_lt_finRange 30).filter _
  unfold State.pairs
  rw [List.pairwise_filterMap]
  refine hpos.imp_of_mem fun {a b} ha hb hab x hx y hy => ?_
  obtain ⟨_, -, rfl⟩ := Option.map_eq_some_iff.mp hx
  obtain ⟨_, -, rfl⟩ := Option.map_eq_some_iff.mp hy
  exact (rankOf_lt_iff ((mem_phasePositions.mp ha).trans (mem_phasePositions.mp hb).symm)).mpr hab

/-! ## The words on MTX (R152, R201) -/

/-- In an unbroken run each word stands in its own bit times. -/
theorem lineLevel_word {n : Nat} {words : List (BitVec n)} {i : Nat} {w : BitVec n} (h : words[i]? = some w) :
    ∀ k < n, lineLevel words (n * i + k) = w.getLsbD k := by
  intro k hk
  induction words generalizing i with
  | nil => cases h
  | cons v vs ih =>
    obtain ⟨hfirst, hrest⟩ := lineLevel_cons v vs
    cases i with
    | zero =>
      obtain rfl : v = w := Option.some.inj h
      rw [Nat.mul_zero, Nat.zero_add]
      exact hfirst k hk
    | succ i =>
      rw [show n * (i + 1) + k = n + (n * i + k) by rw [Nat.mul_succ]; omega, hrest]
      exact ih h

/-- After the last word of a run the line is high. -/
theorem lineLevel_after {n : Nat} (words : List (BitVec n)) {k : Nat} (h : n * words.length ≤ k) :
    lineLevel words k = true := by
  induction words generalizing k with
  | nil => exact lineLevel_nil k
  | cons w ws ih =>
    rw [List.length_cons, Nat.mul_succ] at h
    obtain ⟨j, rfl⟩ := Nat.exists_eq_add_of_le (Nat.le_of_add_left_le h)
    rw [(lineLevel_cons w ws).2]
    exact ih (by omega)

theorem mtx_idle {s : State} (h : s.publisher.sending = none) (k : Nat) : s.mtx k = true := by
  unfold State.mtx State.setLineWords
  rw [h]
  exact lineLevel_nil k

theorem mtx_sending {s : State} {f : Sending} (h : s.publisher.sending = some f) (k : Nat) :
    s.mtx k = lineLevel (f.frame.map modWord) k := by
  unfold State.mtx State.setLineWords
  rw [h]

/-! ## The end of a set frame (R155) -/

theorem frameEnd_queued {s : State} {q : List Byte} (h : s.publisher.queued = some q) :
    s.frameEnd = s.setPublisher { s.publisher with
      sending := some { frame := q, since := s.time }, queued := none } := by
  unfold State.frameEnd
  rw [h]

theorem frameEnd_last {s : State} (h : s.publisher.queued = none) :
    s.frameEnd = s.setPublisher { s.publisher with
      sending := none
      frameSent := if s.engine.state = .publishing then some true else s.publisher.frameSent } := by
  unfold State.frameEnd
  rw [h]

/-- Settles O48: the layout by `pairWords_eq`, the pairs by `mem_pairs` and `pairs_ascending`, the line by
`lineLevel_word` and `lineLevel_after`, and the turn by what `frameEnd` makes of the queue. -/
theorem setFramesAreSentInTurn : Obligations.SetFramesAreSentInTurn := by
  refine ⟨fun generation r a b c => ⟨setFrame_length generation r a b c, setFrameBody generation r a b c, rfl, rfl⟩,
    fun s q => ⟨pairs_ascending s q, fun _ _ => mem_pairs⟩,
    fun s => ⟨mtx_idle, fun f hf => ⟨fun i b hb k hk => ?_, fun k hk => ?_⟩⟩, fun s f hm hf hrun => ?_⟩
  · rw [mtx_sending hf]
    exact lineLevel_word (by rw [List.getElem?_map, hb]; rfl) k hk
  · rw [mtx_sending hf]
    exact lineLevel_after _ (by rwa [List.length_map])
  · have hend {t : State} (ht : s.frameEnd = t) : exec .setFrameSent s = .next t :=
      exec_due rfl hm ((frameDue_iff s).mpr ⟨f, hf, hrun⟩) ht
    refine ⟨fun q hq => hend (frameEnd_queued hq), fun hq hp => hend ?_, fun hq hp => hend ?_⟩
    · rw [frameEnd_last hq, if_pos hp]
    · rw [frameEnd_last hq, if_neg hp]

/-! ## The words of an adoption frame (R156, R201, R203) -/

/-- The data of a word is the byte in its bit times 1 to 8 (R201). -/
theorem modData_eq {w : BitVec 10} {data : Byte} (h : ∀ i < 8, data.getLsbD i = w.getLsbD (i + 1)) :
    modData w = data := by
  refine BitVec.eq_of_getLsbD_eq fun i hi => ?_
  unfold modData
  rw [BitVec.getLsbD_extractLsb', Nat.add_comm, h i hi]
  simp [hi]

theorem isHeader_iff {data : Byte} {afterIdle : Bool} :
    isHeader data afterIdle = true ↔ afterIdle = true ∧ data = 0x5A := by simp [isHeader]

theorem bytes2_word16 (hi lo : Byte) : bytes2 (word16 hi lo).toNat = [hi, lo] := by
  have hword : (word16 hi lo).toNat = hi.toNat * 256 + lo.toNat := by
    unfold word16
    rw [BitVec.toNat_append, ← Nat.shiftLeft_add_eq_or_of_lt lo.isLt, Nat.shiftLeft_eq]
  have hlo := lo.isLt
  have hhi := hi.isLt
  rw [hword]
  simp only [bytes2, byteOf, List.cons.injEq, and_true]
  constructor <;> apply BitVec.eq_of_toNat_eq <;> rw [BitVec.toNat_ofNat] <;> omega

/-- Two bytes are those of a 16-bit value exactly when it is the word they make. -/
theorem bytes2_eq_iff {n : BitVec 16} {hi lo : Byte} : bytes2 n.toNat = [hi, lo] ↔ n = word16 hi lo := by
  refine ⟨fun h => ?_, fun h => by rw [h, bytes2_word16]⟩
  obtain ⟨rfl, h2⟩ := List.cons.inj h
  obtain ⟨rfl, -⟩ := List.cons.inj h2
  exact (word16_bytes2 n).symm

section
variable {s : State} {data : Byte} {afterIdle : Bool}

/-- A header word opens a frame, and a partial one is discarded. -/
theorem adoptionWord_header (h : isHeader data afterIdle = true) :
    s.adoptionWord data afterIdle = s.setReceiver (some [data]) := if_pos h

variable (h : ¬isHeader data afterIdle = true)
include h

/-- A word with no frame open is discarded. -/
theorem adoptionWord_stray (hr : s.publisher.receiver = none) : s.adoptionWord data afterIdle = s := by
  unfold State.adoptionWord
  rw [if_neg h, hr]

/-- A word of an open frame of fewer than four words is held. -/
theorem adoptionWord_held {l : List Byte} (hr : s.publisher.receiver = some l) (hl : l.length < 4) :
    s.adoptionWord data afterIdle = s.setReceiver (some (l ++ [data])) := by
  have hshort : ¬5 ≤ (l ++ [data]).length := by
    rw [List.length_append, List.length_singleton]
    omega
  unfold State.adoptionWord
  rw [if_neg h, hr]
  exact if_neg hshort

/-- The fifth word closes the frame, and its CRC-16 decides. -/
theorem adoptionWord_fifth {w0 w1 w2 w3 : Byte} (hr : s.publisher.receiver = some [w0, w1, w2, w3]) :
    s.adoptionWord data afterIdle =
      if crc16 [w0, w1, w2] = word16 w3 data then (s.setReceiver none).adoption (word16 w1 w2)
      else s.setReceiver none := by
  unfold State.adoptionWord
  rw [if_neg h, hr]
  rfl

end

/-- Settles O50: by the header, the frame held, and for the fifth word the CRC-16. -/
theorem adoptionWordsMakeFrames : Obligations.AdoptionWordsMakeFrames := by
  intro w data afterIdle s hm hdata c header held
  have hexec {t : State} (ht : s.adoptionWord data afterIdle = t) : exec c s = .next t :=
    (exec_running (f := fun s => s.adoptionWord (modData w) afterIdle) rfl hm).trans
      (by rw [modData_eq hdata, ht])
  have hword : ¬header → ¬isHeader data afterIdle = true := mt isHeader_iff.mp
  refine ⟨fun hh => hexec (adoptionWord_header (isHeader_iff.mpr hh)),
    fun hn hr => hexec (adoptionWord_stray (hword hn) hr),
    fun hn l hr hl => hexec (adoptionWord_held (hword hn) hr hl),
    fun hn w0 w1 w2 w3 hr => ⟨fun hcrc => ?_, fun hcrc => hexec ?_⟩⟩
  · have hframe : exec (.adoptionFrame (w1 ++ w2)) s = .next ((s.setReceiver none).adoption (w1 ++ w2)) :=
      exec_running (f := fun s => (s.setReceiver none).adoption (w1 ++ w2)) rfl hm
    rw [hframe]
    exact hexec ((adoptionWord_fifth (hword hn) hr).trans (if_pos (bytes2_eq_iff.mp hcrc)))
  · exact (adoptionWord_fifth (hword hn) hr).trans (if_neg (mt bytes2_eq_iff.mpr hcrc))

end Sys2Proof.Machine
end

section
/-! Proofs: the requests NOP, GET_PARAM and READ_CAUSE (R179, R191, R195), and ACK and SET_MASK with ATTN_N (R181 to
R183). -/

namespace Sys2Proof.Machine

/-! ## Requests that read the parameters and the reset-cause record -/

/-- The 26 parameters are numbered from 0 (R192). -/
theorem paramRange_isSome (n : Nat) : (paramRange n).isSome = true ↔ n ≤ 25 := by
  refine ⟨fun h => ?_, fun h => ?_⟩
  · obtain ⟨r, hr⟩ := Option.isSome_iff_exists.mp h
    exact Nat.le_of_lt_succ (paramRange_some hr)
  · interval_cases n <;> rfl

theorem requestGetParam_known {n : Byte} (h : n.toNat ≤ 25) (s : State) :
    requestGetParam n s = s.reply (.done (bytes4 (s.params.get n.toNat))) := by
  obtain ⟨r, hr⟩ := Option.isSome_iff_exists.mp ((paramRange_isSome _).mpr h)
  unfold requestGetParam
  rw [hr]

theorem requestGetParam_unknown {n : Byte} (h : 25 < n.toNat) (s : State) :
    requestGetParam n s = s.reply (.refusal .badArgument) := by
  have hr : paramRange n.toNat = none :=
    Option.not_isSome_iff_eq_none.mp (mt (paramRange_isSome _).mp (Nat.not_le.mpr h))
  unfold requestGetParam
  rw [hr]

/-- Settles O3: each request is a reply on the state as it stands. -/
theorem nopGetParamAndReadCauseAnswer : Obligations.NopGetParamAndReadCauseAnswer := by
  intro tag s hm
  refine ⟨performs_of hm rfl rfl rfl, fun n hn => performs_of hm rfl (requestGetParam_known hn s) rfl,
    fun n hn => refuses_of hm rfl (requestGetParam_unknown hn s), performs_of hm rfl ?_ rfl⟩
  unfold requestReadCause ResetRecord.payload
  rw [item1_bitCode]
  rfl

/-! ## ACK and SET_MASK (R181 to R183) -/

/-- The byte of a flag has that flag's bit alone (R180). -/
theorem Flag.getLsbD_bit (f : Flag) (n : Nat) : f.bit.getLsbD n = decide (n = f.number) := by
  by_cases hn : n < 8
  · interval_cases n <;> cases f <;> rfl
  · have hf : f.number < 8 := by cases f <;> decide
    rw [BitVec.getLsbD_of_ge _ _ (Nat.le_of_not_lt hn), decide_eq_false (by omega)]

/-- Flags that stand, with one that is set again among those a byte names (R181). -/
theorem getLsbD_joined (left byte : Byte) (f : Flag) (n : Nat) :
    (left ||| ((left ||| f.bit) &&& byte)).getLsbD n =
      (left.getLsbD n || (byte.getLsbD n && decide (n = f.number))) := by
  rw [BitVec.getLsbD_or, BitVec.getLsbD_and, BitVec.getLsbD_or, f.getLsbD_bit]
  cases left.getLsbD n <;> cases byte.getLsbD n <;> simp

/-- ATTN_N is low exactly while a flag is set and enabled (R183). -/
theorem attnN_low_iff (s : State) :
    s.attnN = false ↔ ∃ n, s.port.flags.getLsbD n = true ∧ s.port.mask.getLsbD n = true :=
  masked_iff _ _

/-- The state after an ACK: the flags it names are cleared, and its answer, with the flags that stand, is in
preparation (R181). -/
def State.acknowledged (s : State) (tag byte : Byte) : State :=
  (s.setCsN true).setPort { s.port with
    state := .preparing s.time
    answer := some { code := .done, tag := tag, payload := [s.port.flags &&& ~~~byte], acked := byte }
    miso := []
    flags := s.port.flags &&& ~~~byte }

theorem exec_ack {s : State} (hm : s.mode = .running) (tag byte : Byte) :
    exec (.ack tag byte) s = .next (s.acknowledged tag byte) :=
  congrArg Host.Outcome.next (whileRunning_running hm _)

theorem tick_answer (s : State) : s.tick.port.answer = s.port.answer.map (Answer.settled s.port.flags) := rfl

/-- A flag set again at the moment of an ACK that named it joins its answer (R181, assumption 27). -/
theorem acknowledged_setFlag_answer (s : State) (tag byte : Byte) (f : Flag) : ∃ stands : Byte,
    (∀ n, stands.getLsbD n =
      ((s.port.flags &&& ~~~byte).getLsbD n || (byte.getLsbD n && decide (n = f.number)))) ∧
    ((s.acknowledged tag byte).setFlag f).tick.port.answer =
      some { code := .done, tag := tag, payload := [stands] } :=
  ⟨_, getLsbD_joined _ byte f, tick_answer _⟩

/-- Settles O11: ACK by the flags it leaves, SET_MASK by the mask it writes, ATTN_N by flags and mask. -/
theorem ackAndSetMaskDriveAttention : Obligations.AckAndSetMaskDriveAttention := by
  intro tag byte s hm
  have hmask : s.Performs (.setMask tag byte) tag .done [byte, s.port.flags]
      (s.setPort { s.port with mask := byte }) := performs_of hm rfl rfl rfl
  refine ⟨⟨s.port.flags &&& ~~~byte, getLsbD_cleared _ _, exec_ack hm tag byte, fun t ht => ?_⟩, hmask,
    fun t ht => ?_⟩
  · cases execNext ((exec_ack hm tag byte).symm.trans ht)
    exact ⟨attnN_low_iff _, acknowledged_setFlag_answer s tag byte⟩
  · cases execNext (hmask.symm.trans ht)
    exact attnN_low_iff _

end Sys2Proof.Machine
end

section
/-! Proofs: the judgment of request frames (R173, R174, R176), and the frames of the 24 requests (R175, R201). -/

namespace Sys2Proof.Machine

/-! ## The request catalogue (R174) -/

/-- The payload lengths of the catalogue, from code 0x01 on. -/
def catalogueLengths : List Nat := [0, 1, 1, 4, 1, 1, 7, 1, 1, 2, 5, 1, 0, 11, 3, 4, 4, 2, 0, 0, 1, 1, 0, 0]

theorem catalogueLength_eq : ∀ code : Byte, code ≠ 0 →
    catalogueLength code.toNat = catalogueLengths[code.toNat - 1]? := by
  decide

theorem catalogueLength_none {code : Byte} (h : code = 0 ∨ 0x18 < code.toNat) :
    catalogueLength code.toNat = none := by
  rcases h with rfl | h
  · rfl
  · have h0 : code ≠ 0 := by
      rintro rfl
      cases h
    rw [catalogueLength_eq code h0]
    exact List.getElem?_eq_none (Nat.le_sub_one_of_lt h)

theorem catalogueLength_isSome {code : Byte} (h0 : code ≠ 0) (h : code.toNat ≤ 0x18) :
    (catalogueLength code.toNat).isSome = true := by
  have hpos : code.toNat ≠ 0 := fun hn => h0 (BitVec.eq_of_toNat_eq hn)
  have hlt : code.toNat - 1 < catalogueLengths.length := by
    show _ < 24
    omega
  rw [catalogueLength_eq code h0, List.getElem?_eq_getElem hlt]
  rfl

/-- A function of payloads answers none but on payloads of one length. -/
def OnlyOfLength : Nat → (List Byte → Option Instr) → Prop
  | 0, f => ∀ b l, f (b :: l) = none
  | n + 1, f => f [] = none ∧ ∀ b, OnlyOfLength n fun l => f (b :: l)

theorem OnlyOfLength.none {n : Nat} {f : List Byte → Option Instr} (h : OnlyOfLength n f) {payload : List Byte}
    (hl : payload.length ≠ n) : f payload = .none := by
  induction n generalizing f payload with
  | zero =>
    cases payload with
    | nil => exact absurd rfl hl
    | cons b l => exact h b l
  | succ n ih =>
    cases payload with
    | nil => exact h.1
    | cons b l => exact ih (h.2 b) fun hn => hl (congrArg Nat.succ hn)

/-- A request is named only by a payload of its catalogue length. -/
theorem requestOf_onlyOfLength {code n : Nat} (hcode : code ≤ 0x18) (h : catalogueLength code = some n) (tag : Byte) :
    OnlyOfLength n (requestOf code tag) := by
  interval_cases code <;> cases h
  all_goals
    repeat refine ⟨rfl, fun _ => ?_⟩
    exact fun _ _ => rfl

theorem judgeCode_unknown {code : Byte} (h : code = 0 ∨ 0x18 < code.toNat) (tag : Byte) (payload : List Byte) :
    judgeCode code tag payload = .refused .unknownRequest tag := by
  unfold judgeCode
  rw [catalogueLength_none h]

theorem judgeCode_length {code : Byte} (h0 : code ≠ 0) (h : code.toNat ≤ 0x18) (tag : Byte) {payload : List Byte}
    (hl : catalogueLengths[code.toNat - 1]? ≠ some payload.length) :
    judgeCode code tag payload = .refused .badArgument tag := by
  obtain ⟨n, hn⟩ := Option.isSome_iff_exists.mp (catalogueLength_isSome h0 h)
  have hr : requestOf code.toNat tag payload = none :=
    (requestOf_onlyOfLength h hn tag).none fun hlen => hl (hlen ▸ (catalogueLength_eq code h0).symm.trans hn)
  unfold judgeCode
  rw [hn, hr]

/-! ## The judgment of a frame (R173) -/

theorem judgeFrame_short {bytes : List Byte} (h : bytes.length < 3) :
    judgeFrame bytes = .refused .badFrame (bytes.getD 1 0) := by
  match bytes, h with
  | [], _ => rfl
  | [_], _ => rfl
  | [_, _], _ => rfl
  | _ :: _ :: _ :: _, h => exact absurd h (by simp)

section
variable (code tag : Byte) {len : Byte} {rest : List Byte}

theorem judgeFrame_long (h : 40 < len.toNat) : judgeFrame (code :: tag :: len :: rest) = .refused .badFrame tag :=
  if_pos h

variable (h : len.toNat ≤ 40)
include h

theorem judgeFrame_missing (hr : rest.length ≤ len.toNat) :
    judgeFrame (code :: tag :: len :: rest) = .refused .badFrame tag := by
  unfold judgeFrame
  dsimp only
  rw [if_neg (Nat.not_lt.mpr h), List.drop_of_length_le hr]

/-- With the CRC byte received, it decides between BAD_FRAME and the judgment of the code. -/
theorem judgeFrame_crc {crc : Byte} (hc : rest[len.toNat]? = some crc) :
    judgeFrame (code :: tag :: len :: rest) =
      if crc8 (code :: tag :: len :: rest.take len.toNat) = crc then judgeCode code tag (rest.take len.toNat)
      else .refused .badFrame tag := by
  obtain ⟨hlt, hcrc⟩ := List.getElem?_eq_some_iff.mp hc
  unfold judgeFrame
  dsimp only
  rw [if_neg (Nat.not_lt.mpr h), List.drop_eq_getElem_cons hlt, hcrc]

end

/-! ## What a SERVING transaction ends in (R173 to R176) -/

section
variable {s : State} (hm : s.mode = .running) (hc : s.csN = false) (hs : s.port.state = .serving)
include hm hc hs

/-- A refused frame changes nothing but the port's answer. -/
theorem exec_transactionEnd_refused {mosi : List Bool} {code : AnswerCode} {tag : Byte}
    (hj : judgeFrame (mosiBytes mosi) = .refused code tag) : exec (.transactionEnd mosi) s =
      .next ((s.setCsN true).setPort { s.port with
        state := .preparing s.time, answer := some { code := code, tag := tag, payload := [] }
        miso := [] }) := by
  rw [transactionEnd_served mosi hm hc hs]
  unfold State.served
  rw [hj]
  rfl

theorem exec_transactionEnd_request {mosi : List Bool} {i : Instr}
    (hj : judgeFrame (mosiBytes mosi) = .request i) :
    exec (.transactionEnd mosi) s = .next ((s.setCsN true).perform i) := by
  rw [transactionEnd_served mosi hm hc hs]
  unfold State.served
  rw [hj]

end

/-- Settles O27: by the number of bytes, the length, the CRC byte, the code and the catalogue length, in the order
in which the port looks at them. -/
theorem framesAreJudged : Obligations.FramesAreJudged := by
  intro s bytes left hm hc hs hleft answered lengths
  have hrefused {code : AnswerCode} {tag : Byte} (hj : judgeFrame bytes = .refused code tag) : answered code tag := by
    refine exec_transactionEnd_refused hm hc hs ?_
    rw [mosiBytes_flatMap, mosiBytes_short left hleft, List.append_nil, hj]
  refine ⟨fun h => hrefused (judgeFrame_short h), ?_⟩
  rintro code tag len rest rfl
  refine ⟨fun h => hrefused (judgeFrame_long code tag h),
    fun h hr => hrefused (judgeFrame_missing code tag h hr), fun h crc hcrc => ?_⟩
  have hjudge := judgeFrame_crc code tag h hcrc
  have hlen : (rest.take len.toNat).length = len.toNat :=
    List.length_take_of_le (List.getElem?_eq_some_iff.mp hcrc).1.le
  refine ⟨fun hw => hrefused (hjudge.trans (if_neg (Ne.symm hw))), fun hr hcode => hrefused ?_,
    fun hr h0 hcode hl => hrefused ?_⟩
  · rw [hjudge, if_pos hr.symm, judgeCode_unknown hcode]
  · rw [hjudge, if_pos hr.symm, judgeCode_length h0 hcode]
    rwa [hlen]

/-! ## The frames of the requests (R174, R201) -/

/-- A request given directly is performed as from a frame. -/
theorem exec_request {resetTag : Byte} {i : Instr} {bytes : List Byte}
    (h : Instr.requestBytes resetTag i = some bytes) (s : State) : exec i s = .next (s.perform i) := by
  cases i with
  | nop | lookup | findChannel | findSerial | list | linkStatus | enrol | retire | readmit | clearTally | setParam
  | getParam | start | loadShift | dropShift | readShift | loadScale | readScale | summary | clearLockout | ack
  | setMask | readCause | reset => rfl
  | _ => cases h

/-- The code and the payload of a request's frame name that request, its operands read back byte by byte. -/
theorem requestBytes_judged {resetTag : Byte} {i : Instr} {bytes : List Byte}
    (h : Instr.requestBytes resetTag i = some bytes) : ∃ code tag len payload,
      bytes = code :: tag :: len :: payload ∧ len.toNat = payload.length ∧ payload.length ≤ 40 ∧
      judgeCode code tag payload = .request i := by
  cases i with
  | nop | lookup | findChannel | list | linkStatus | retire | readmit | clearTally | getParam | start | dropShift
  | readShift | loadScale | readScale | summary | clearLockout | ack | setMask | readCause | reset =>
    cases h
    exact ⟨_, _, _, _, rfl, rfl, by simp, rfl⟩
  | findSerial tag n =>
    cases h
    exact ⟨_, _, _, _, rfl, rfl, by simp [bytes4],
      congrArg (fun n => Judgment.request (.findSerial tag n)) (word32_bytes4 n)⟩
  | enrol tag p c n t =>
    cases h
    exact ⟨_, _, _, _, rfl, rfl, by simp [bytes4],
      congrArg (fun n => Judgment.request (.enrol tag p c n t)) (word32_bytes4 n)⟩
  | setParam tag n v =>
    cases h
    exact ⟨_, _, _, _, rfl, rfl, by simp [bytes4],
      congrArg (fun v => Judgment.request (.setParam tag n v)) (word32_bytes4 v)⟩
  | loadShift tag h i j a b c f =>
    cases h
    refine ⟨_, _, _, _, rfl, rfl, by simp [bytes2], ?_⟩
    show Judgment.request (.loadShift tag h i j _ _ _ _) = _
    rw [word16_bytes2 a, word16_bytes2 b, word16_bytes2 c, word16_bytes2 f]
  | _ => cases h

/-- A whole frame is judged to be its request, whatever bytes follow it. -/
theorem judgeFrame_request {resetTag : Byte} {i : Instr} {bytes : List Byte}
    (h : Instr.requestBytes resetTag i = some bytes) (more : List Byte) :
    judgeFrame (bytes ++ [crc8 bytes] ++ more) = .request i := by
  obtain ⟨code, tag, len, payload, rfl, hlen, h40, hjudge⟩ := requestBytes_judged h
  rw [← hjudge, ← judgeFrame_whole code tag len payload more hlen h40, List.append_assoc]
  rfl

/-- Settles O28: the frame is judged to be its request, which is performed as if given directly. -/
theorem requestFramesExecuteTheirRequest : Obligations.RequestFramesExecuteTheirRequest := by
  intro i resetTag bytes padding s hb hm hc hs
  rw [exec_request hb]
  refine exec_transactionEnd_request hm hc hs ?_
  rw [mosiBytes_flatMap]
  exact judgeFrame_request hb _

end Sys2Proof.Machine
end

section
/-! Proofs: the held part and the end of a reset (R184, R185, R188, R204), and the walk of a transaction through the
port (R169 to R172, R177, R181, R201). -/

namespace Sys2Proof.Machine

/-- The status byte, bit for bit (R177, R201). -/
theorem statusByte_eq (s : State) (ready : Bool) :
    s.statusByte ready = byteOf (128 + (if ready then 64 else 0) + (if s.engine.state = .lockout then 32 else 0)
      + (if s.port.flags = 0 then 0 else 16) + s.engine.state.code) := by
  have hready : bitCode ready * 64 = if ready then 64 else 0 := by cases ready <;> rfl
  have hlockout : bitCode (s.engine.state == .lockout) * 32 = if s.engine.state = .lockout then 32 else 0 := by
    by_cases h : s.engine.state = .lockout <;> simp [h, bitCode]
  have hflags : bitCode (s.port.flags != 0x00#8) * 16 = if s.port.flags = 0 then 0 else 16 := by
    by_cases h : s.port.flags = 0x00#8 <;> simp [h, bitCode]
  unfold State.statusByte
  rw [hready, hlockout, hflags]

/-! ## The held part (R188, R190) -/

section
variable {c : Instr} {s : State} (hm : s.mode ≠ .running)
include hm

theorem exec_whileRunning_stopped {f : State → State} (he : exec c s = .next (s.whileRunning f)) :
    exec c s = .next s := by
  rw [he, whileRunning_stopped hm]

/-- An edge presents its level at the pin and qualifies nothing. -/
theorem exec_edge_stopped {settled presented event : State → State} {l : Lines}
    (he : exec c s = .next (s.edge settled presented event)) (hl : presented s = s.setLines l)
    (henergized : l.energized.qualified = s.lines.energized.qualified)
    (hestop : l.estopN.qualified = s.lines.estopN.qualified)
    (hbrake : l.brakeSet.qualified = s.lines.brakeSet.qualified)
    (hproven : l.proven.qualified = s.lines.proven.qualified) :
    ∃ t, exec c s = .next t ∧ s.ChangesOnly t [.lines] ∧
      t.lines.energized.qualified = s.lines.energized.qualified ∧
      t.lines.estopN.qualified = s.lines.estopN.qualified ∧
      t.lines.brakeSet.qualified = s.lines.brakeSet.qualified ∧
      t.lines.proven.qualified = s.lines.proven.qualified :=
  ⟨s.setLines l, by rw [he, edge_stopped hm, hl], setLines_frame s l, henergized, hestop, hbrake, hproven⟩

end

/-! ## The end of a reset (R184, R185, R188) -/

theorem resetEnd_unheld {s : State} (h : s.mode = .running ∨ s.mode = .off) : s.resetEnd = s := by
  unfold State.resetEnd
  rcases h with h | h <;> rw [h]

theorem resetEnd_held {s : State} {c : ResetCause} (h : s.mode = .held c) : s.resetEnd =
    (((((s.setMode .running).setTime 0).setDownlinkSince 0).setLines s.lines.unqualified).setMatrix
      { s.matrix with dwell := some 0 }).setPort (s.portAtEnd c) := by
  unfold State.resetEnd
  rw [h]

theorem portAtEnd_early {s : State} (h : s.csN = false) : s.portAtEnd .request =
    { s.port with state := .early 0 true, miso := [s.statusByte false] } := by
  unfold State.portAtEnd
  rw [h]

theorem portAtEnd_ready {s : State} {c : ResetCause} (h : c ≠ .request ∨ s.csN = true) :
    s.portAtEnd c = { s.port with state := .ready } := by
  unfold State.portAtEnd
  cases c with
  | request =>
    rw [h.resolve_left fun hn => hn rfl]
  | powerOn | pin => rfl

theorem resetEnd_frame {s : State} {c : ResetCause} (h : s.mode = .held c) :
    s.ChangesOnly s.resetEnd [.mode, .time, .lines, .downlinkSince, .matrix, .port] := by
  rw [resetEnd_held h]
  intro x hx
  cases x with
  | mode | time | lines | downlinkSince | matrix | port => exact absurd (by decide) hx
  | _ => rfl

/-- Settles O25: a request, an event and an edge by what each is in a part that does not run, and RESET_END by the
reset that is held. -/
theorem heldPartWaitsForResetEnd : Obligations.HeldPartWaitsForResetEnd := by
  refine ⟨fun c s hm => ?_, fun s => ⟨fun h => congrArg Host.Outcome.next (resetEnd_unheld h), fun c h => ?_⟩⟩
  · cases c with
    | powerOnReset | pinReset | resetEnd | supplyLoss | transactionBegin | transactionEnd => trivial
    | energizedRising | energizedFalling | estopNFalling | brakeSetRising | brakeSetFalling | provenRising =>
      exact exec_edge_stopped hm rfl rfl rfl rfl rfl rfl
    | _ => exact exec_whileRunning_stopped hm rfl
  · refine ⟨s.resetEnd, rfl, ?_⟩
    have hframe := resetEnd_frame h
    rw [resetEnd_held h] at hframe ⊢
    refine ⟨rfl, rfl, rfl, rfl, fun ⟨hc, hcs⟩ => ?_, fun hready => portAtEnd_ready hready, ⟨rfl, rfl⟩, ⟨rfl, rfl⟩,
      ⟨rfl, rfl⟩, ⟨rfl, rfl⟩, ⟨rfl, rfl⟩, ⟨rfl, rfl⟩, hframe⟩
    rw [State.setPort_port, hc, portAtEnd_early hcs, statusByte_eq]
    rfl

/-! ## Transactions (R170 to R172, R185) -/

section
variable {s : State}

theorem transactionBegin_low (hc : s.csN = false) : s.transactionBegin = s := by
  unfold State.transactionBegin
  rw [hc]
  rfl

theorem transactionBegin_running (hc : s.csN = true) (hm : s.mode = .running) :
    s.transactionBegin = (s.setCsN false).csFall := by
  unfold State.transactionBegin
  rw [hc, if_pos rfl, hm]

/-- While a reset is held, or without supply, CS_N is followed and nothing else. -/
theorem transactionBegin_stopped (hc : s.csN = true) (hm : s.mode ≠ .running) :
    s.transactionBegin = s.setCsN false := by
  unfold State.transactionBegin
  rw [hc, if_pos rfl]
  split
  · rename_i hrun
    exact absurd hrun hm
  all_goals rfl

theorem transactionEnd_high (hc : s.csN = true) (mosi : List Bool) : s.transactionEnd mosi = s := by
  unfold State.transactionEnd
  rw [hc]
  rfl

theorem transactionEnd_running (hc : s.csN = false) (hm : s.mode = .running) (mosi : List Bool) :
    s.transactionEnd mosi = (s.setCsN true).csRise mosi := by
  unfold State.transactionEnd
  rw [hc, if_neg Bool.false_ne_true, hm]

theorem transactionEnd_stopped (hc : s.csN = false) (hm : s.mode ≠ .running) (mosi : List Bool) :
    s.transactionEnd mosi = s.setCsN true := by
  unfold State.transactionEnd
  rw [hc, if_neg Bool.false_ne_true]
  split
  · rename_i hrun
    exact absurd hrun hm
  all_goals rfl

/-- The answer taken as a transaction begins, with the flags set again at its own moment (R171, R181). -/
theorem csFall_ready (hp : s.port.state = .ready) {a : Answer} (ha : s.port.answer = some a) :
    s.csFall = s.setPort { s.port with
      state := .serving, answer := none
      miso := answerFrame (s.statusByte true) (a.settled s.port.flags) } := by
  unfold State.csFall State.serve
  rw [hp, ha]

theorem csFall_preparing {since : Stamp} (hp : s.port.state = .preparing since) :
    s.csFall = s.setPort { s.port with state := .early since false, miso := [s.statusByte false] } := by
  unfold State.csFall
  rw [hp]
  rfl

/-- A transaction that the port does not serve ends: READY with the answer ready meanwhile, and else PREPARING. -/
theorem csRise_early (mosi : List Bool) {since : Stamp} {ready : Bool} (hp : s.port.state = .early since ready) :
    s.csRise mosi = s.setPort { s.port with
      state := if ready then .ready else .preparing since, miso := [] } := by
  unfold State.csRise
  rw [hp]
  cases ready <;> rfl

/-- A transaction that the port did not take after a reset is discarded (R185). -/
theorem csRise_untaken (mosi : List Bool) (hp : s.port.state = .ready ∨ ∃ since, s.port.state = .preparing since) :
    s.csRise mosi = s := by
  unfold State.csRise
  rcases hp with hp | ⟨since, hp⟩ <;> rw [hp]

theorem answerReady_preparing {since : Stamp} (hp : s.port.state = .preparing since) :
    s.answerReady = s.setPort { s.port with state := .ready } := by
  unfold State.answerReady
  rw [hp]

theorem answerReady_early {since : Stamp} {ready : Bool} (hp : s.port.state = .early since ready) :
    s.answerReady = s.setPort { s.port with state := .early since true } := by
  unfold State.answerReady
  rw [hp]

theorem answerReady_none (hp : s.port.state = .ready ∨ s.port.state = .serving) : s.answerReady = s := by
  unfold State.answerReady
  rcases hp with hp | hp <;> rw [hp]

/-! ## MISO (R169, R171, R172, R185, R201) -/

theorem misoByte_released (h : s.csN = true ∨ s.mode ≠ .running) (n : Nat) : s.misoByte n = none := by
  unfold State.misoByte
  split
  · rfl
  · rfl
  · rfl
  · rename_i hc hm
    exact absurd hm (h.resolve_left (hc ▸ Bool.false_ne_true))

theorem misoByte_taken (hc : s.csN = false) (hm : s.mode = .running)
    (hp : s.port.state = .serving ∨ ∃ since ready, s.port.state = .early since ready) (n : Nat) :
    s.misoByte n = some (s.port.miso.getD n 0x00) := by
  unfold State.misoByte
  rw [hc, hm]
  rcases hp with hp | ⟨since, ready, hp⟩ <;> rw [hp]

theorem byteBits_getD (b : Byte) {k : Nat} (hk : k < 8) : (byteBits b).getD k false = b.getLsbD (7 - k) := by
  unfold byteBits
  rw [List.getD_eq_getElem _ _ (by simpa using hk)]
  simp

/-- A byte is shifted most significant bit first. -/
theorem misoBit_of_byte {n k : Nat} {b : Byte} (hb : s.misoByte n = some b) (hk : k < 8) :
    s.misoBit (8 * n + k) = some (b.getLsbD (7 - k)) := by
  have hdiv : (8 * n + k) / 8 = n := by omega
  have hmod : (8 * n + k) % 8 = k := by omega
  unfold State.misoBit
  rw [hdiv, hmod, hb, Option.map_some, byteBits_getD b hk]

end

/-- Settles O26: the edges of CS_N by its level, the mode and the port state, ANSWER_READY by the port state, and
MISO by the byte it carries. -/
theorem transactionsWalkThePort : Obligations.TransactionsWalkThePort := by
  intro s status
  have hstatus (ready : Bool) : (s.setCsN false).statusByte ready = status ready := statusByte_eq _ ready
  have hbegin {t : State} (h : s.transactionBegin = t) : exec .transactionBegin s = .next t :=
    congrArg Host.Outcome.next h
  have hend {mosi : List Bool} {t : State} (h : s.transactionEnd mosi = t) :
      exec (.transactionEnd mosi) s = .next t := congrArg Host.Outcome.next h
  have hanswer {t : State} (hm : s.mode = .running) (h : s.answerReady = t) : exec .answerReady s = .next t :=
    (exec_running rfl hm).trans (congrArg Host.Outcome.next h)
  refine ⟨fun hc => hbegin (transactionBegin_low hc), fun hc hm a hp ha => hbegin ?_,
    fun hc hm since hp => hbegin ?_, fun hc hm => hbegin (transactionBegin_stopped hc hm),
    fun mosi hc => hend (transactionEnd_high hc mosi), fun mosi hc hm => hend (transactionEnd_stopped hc hm mosi),
    fun hm mosi hc => ?_, fun hm since hp => hanswer hm (answerReady_preparing hp),
    fun hm since ready hp => hanswer hm (answerReady_early hp), fun hm hp => hanswer hm (answerReady_none hp),
    fun h n => ?_, fun hc hm hp n k hk => misoBit_of_byte (misoByte_taken hc hm hp n) hk⟩
  · rw [transactionBegin_running hc hm, csFall_ready (s := s.setCsN false) hp ha, hstatus]
    rfl
  · rw [transactionBegin_running hc hm, csFall_preparing (s := s.setCsN false) hp, hstatus]
    rfl
  · have hrise {t : State} (h : (s.setCsN true).csRise mosi = t) : exec (.transactionEnd mosi) s = .next t :=
      hend ((transactionEnd_running hc hm mosi).trans h)
    exact ⟨fun since hp => hrise (csRise_early (s := s.setCsN true) mosi hp),
      fun since hp => hrise (csRise_early (s := s.setCsN true) mosi hp),
      fun hp => hrise (csRise_untaken mosi (.inl hp)), fun since hp => hrise (csRise_untaken mosi (.inr ⟨since, hp⟩))⟩
  · unfold State.misoBit
    rw [misoByte_released h]
    rfl

end Sys2Proof.Machine
end

section
/-! Proofs: the parameter table and SET_PARAM (R192 to R194), and the resets of every block with the reset-cause record
(R187 to R190). -/

namespace Sys2Proof.Machine

/-! ## The parameter table (R192) -/

theorem paramRange_above {n : Nat} (h : 25 < n) : paramRange n = none :=
  Option.not_isSome_iff_eq_none.mp (mt (paramRange_isSome n).mp (Nat.not_le.mpr h))

/-- Settles O16: the table row by row, and no number above 25. -/
theorem parameterTable : Obligations.ParameterTable :=
  ⟨by decide, fun _ => paramRange_above, rfl⟩

/-! ## A store and the pairs (R194) -/

/-- The three pairs, each as the parameter stored and the one carried along (R194). -/
theorem followerOf_eq_some {n m : Nat} (h : followerOf n = some m) :
    (n = 9 ∧ m = 10) ∨ (n = 12 ∧ m = 13) ∨ (n = 21 ∧ m = 22) := by
  unfold followerOf at h
  split at h
  · cases h
    exact .inl ⟨rfl, rfl⟩
  · cases h
    exact .inr (.inl ⟨rfl, rfl⟩)
  · cases h
    exact .inr (.inr ⟨rfl, rfl⟩)
  · cases h

theorem storedValue_eq_ite (ps : Params) (n v : Nat) :
    ps.storedValue n v = if n = 13 then min v (1000 * ps.tHO)
      else if n = 22 then max v ps.tVMIN
      else if n = 10 ∧ v ≠ 0 then max v ps.vLo
      else v := by
  unfold Params.storedValue
  split
  · by_cases hv : v = 0 <;> simp [hv]
  · rfl
  · rfl
  · rename_i h10 h13 h22
    rw [if_neg h13, if_neg h22, if_neg fun h => h10 h.1]

/-- The upper end of a pair over a store: stored itself, carried along by the lower end, or kept (R194). -/
theorem get_store_upper (ps : Params) {lower upper : Nat} (hf : followerOf lower = some upper) (n v : Nat) :
    (ps.store n v).get upper = if n = upper then ps.storedValue n v
      else if n = lower then (ps.store lower v).get upper else ps.get upper := by
  have hpair := followerOf_eq_some hf
  split_ifs with hupper hlower
  · rw [hupper]
    exact get_store_same ps v (by omega)
  · rw [hlower]
  · refine get_store_other ps v (by omega) (Ne.symm hupper) fun h => ?_
    have := followerOf_eq_some h
    omega

theorem store_tCC (ps : Params) (n v : Nat) :
    (ps.store n v).tCC = if n = 13 then ps.storedValue n v
      else if n = 12 then min ps.tCC (1000 * ps.storedValue n v) else ps.tCC := by
  refine (get_store_upper ps (lower := 12) (upper := 13) rfl n v).trans ?_
  by_cases h12 : n = 12
  · subst h12
    rfl
  · rw [if_neg h12, if_neg h12]
    rfl

theorem store_tVER (ps : Params) (n v : Nat) :
    (ps.store n v).tVER = if n = 22 then ps.storedValue n v
      else if n = 21 then max ps.tVER (ps.storedValue n v) else ps.tVER := by
  refine (get_store_upper ps (lower := 21) (upper := 22) rfl n v).trans ?_
  by_cases h21 : n = 21
  · subst h21
    rfl
  · rw [if_neg h21, if_neg h21]
    rfl

/-- A vHi of 0 is not carried along (R194). -/
theorem store_vHi (ps : Params) (n v : Nat) :
    (ps.store n v).vHi = if n = 10 then ps.storedValue n v
      else if n = 9 ∧ ps.vHi ≠ 0 then max ps.vHi (ps.storedValue n v) else ps.vHi := by
  refine (get_store_upper ps (lower := 9) (upper := 10) rfl n v).trans ?_
  by_cases h9 : n = 9
  · subst h9
    change (if ps.vHi = 0 then 0 else max ps.vHi v) = if 9 = 9 ∧ ps.vHi ≠ 0 then max ps.vHi v else ps.vHi
    by_cases hv : ps.vHi = 0 <;> simp [hv]
  · rw [if_neg h9, if_neg (mt And.left h9)]
    rfl

/-- A parameter that is neither stored nor the upper end of a pair keeps its value (R194). -/
theorem get_store_kept (ps : Params) {n m : Nat} (v : Nat) (hm : m ≤ 25) (hmn : m ≠ n) (h13 : m ≠ 13)
    (h22 : m ≠ 22) (h10 : m ≠ 10) : (ps.store n v).get m = ps.get m := by
  refine get_store_other ps v (Nat.lt_succ_of_le hm) hmn fun h => ?_
  have := followerOf_eq_some h
  omega

/-! ## SET_PARAM (R193) -/

section
variable {number : Byte} {value : BitVec 32} {s : State}

theorem requestSetParam_unknown (h : 25 < number.toNat) :
    requestSetParam number value s = s.reply (.refusal .badArgument) := by
  unfold requestSetParam
  rw [paramRange_above h]

theorem requestSetParam_wrongMode (h : number.toNat ≤ 25) (hc : s.engine.state ≠ .config) :
    requestSetParam number value s = s.reply (.refusal .wrongMode) := by
  obtain ⟨r, hr⟩ := Option.isSome_iff_exists.mp ((paramRange_isSome _).mpr h)
  unfold requestSetParam
  rw [hr]
  exact if_pos hc

/-- Any parameter but tSIL is stored and nothing else is done (R193, R197). -/
theorem requestSetParam_accepted {lo hi : Nat} (hr : paramRange number.toNat = some (lo, hi))
    (hc : s.engine.state = .config) (hn : number.toNat ≠ 17) {within stored : Nat}
    (hwithin : within = clampTo lo hi value.toNat) (hstored : stored = s.params.storedValue number.toNat within) :
    requestSetParam number value s =
      { reply := { code := if stored = value.toNat then .done else .clamped, payload := bytes4 stored }
        state := s.setParams (s.params.store number.toNat within) } := by
  unfold requestSetParam
  rw [hr]
  dsimp only
  rw [if_neg (not_not.mpr hc), ← hwithin, get_store_same s.params within (paramRange_some hr), ← hstored, if_neg hn]

end

/-- Settles O17: the parameters after an accepted SET_PARAM are those of `Params.store`. -/
theorem setParamClampsAndStores : Obligations.SetParamClampsAndStores := by
  intro tag number value s hm n old
  refine ⟨fun h => refuses_of hm rfl (requestSetParam_unknown h),
    fun h hc => refuses_of hm rfl (requestSetParam_wrongMode h hc), fun lo hi hr hc hn => ?_⟩
  obtain ⟨within, hwithin⟩ : ∃ w, w = clampTo lo hi value.toNat := ⟨_, rfl⟩
  exact ⟨old.store n within, within, old.storedValue n within,
    hwithin.trans (clampTo_eq_ite (paramRange_le hr) value.toNat), storedValue_eq_ite old n within,
    get_store_same old within (paramRange_some hr), store_tCC old n within, store_tVER old n within,
    store_vHi old n within, fun _ => get_store_kept old within,
    performs_of hm rfl (requestSetParam_accepted hr hc hn hwithin rfl) rfl⟩

/-! ## Resets (R187 to R190) -/

/-- A pulse is cut exactly where a FIRE line is driven (R89, R189). -/
theorem isFiring_eq (s : State) : s.isFiring = s.fireLine.isSome := by
  unfold State.isFiring State.fireLine
  cases s.matrix.unit <;> rfl

theorem causeRecord_running {s : State} (hm : s.mode = .running) (cause : ResetCause) :
    s.causeRecord cause =
      { cause := cause, engine := some s.engine.state, pulseCut := s.fireLine.isSome } := by
  unfold State.causeRecord
  rw [hm, isFiring_eq]

/-- A reset within a reset keeps the state fields of its record (R189). -/
theorem causeRecord_held {s : State} {c : ResetCause} (hm : s.mode = .held c) (cause : ResetCause) :
    s.causeRecord cause = { s.port.resetRecord with cause := cause } := by
  unfold State.causeRecord
  rw [hm]

theorem pinReset_supplied {s : State} (hm : s.mode ≠ .off) :
    s.pinReset = s.blocksReset (.held .pin) (s.causeRecord .pin) := by
  unfold State.pinReset
  split
  · rfl
  · rfl
  · rename_i hoff
    exact absurd hoff hm

theorem pinReset_off {s : State} (hm : s.mode = .off) : s.pinReset = s := by
  unfold State.pinReset
  rw [hm]

/-- A reset leaves what is no block's: the sense lines, the counter of choices and the waiting commands. -/
theorem blocksReset_frame (s : State) (mode : Mode) (record : ResetRecord) :
    s.ChangesOnly (s.blocksReset mode record) [.mode, .time, .lines, .csN, .params, .roster, .accrual, .links,
      .downlinkSince, .intake, .matrix, .engine, .result, .tables, .publisher, .port] := by
  intro x hx
  cases x with
  | sense | choices | pending => rfl
  | _ => exact absurd (by decide) hx

/-- Settles O24: each reset is `blocksReset` with its record, which holds the part at its after-reset values. -/
theorem resetsTakeEveryBlockBack : Obligations.ResetsTakeEveryBlockBack := by
  intro s firing reset
  have hreset {u : State} (hu : s.ChangesOnly u [.csN]) {cause : ResetCause} {record : ResetRecord}
      (hcause : record.cause = cause) : reset (u.blocksReset (.held cause) record) record := by
    subst hcause
    have hstands := blocksReset_stands u (.held record.cause) record
    have hheld : (u.blocksReset (.held record.cause) record).mode ≠ .running := nofun
    obtain ⟨hblocks, hmatrix, hport⟩ := hstands hheld
    obtain ⟨htrip, hbrake, hprove, hattn, hrank, hfire, -⟩ := held_outputs hstands hheld
    have hlines : (u.blocksReset (.held record.cause) record).lines = s.lines.unqualified :=
      congrArg Lines.unqualified (hu .lines (by decide) : u.lines = s.lines)
    refine ⟨rfl, hport, hmatrix, hblocks, (hu.more (by decide)).trans (blocksReset_frame u _ record), ?_, ?_, ?_, ?_,
      ?_, ?_, htrip, hbrake, hprove, hattn, hrank, hfire⟩
    all_goals
      rw [hlines]
      rfl
  have hpin (hm : s.mode ≠ .off) : exec .pinReset s = .next (s.blocksReset (.held .pin) (s.causeRecord .pin)) :=
    congrArg Host.Outcome.next (pinReset_supplied hm)
  refine ⟨⟨s.powerOn, rfl, hreset (.refl s _) rfl⟩, fun hm => ⟨?_, ?_⟩, fun c hm => ?_, fun hm => ?_, s.supplyLost,
    rfl, rfl, rfl⟩
  · refine ⟨_, hpin (hm ▸ nofun), ?_⟩
    rw [causeRecord_running hm]
    exact hreset (.refl s _) rfl
  · refine ⟨s.requestReset, exec_running rfl hm, rfl, ?_⟩
    unfold State.requestReset
    rw [causeRecord_running hm]
    exact hreset (setCsN_frame s true) rfl
  · refine ⟨_, hpin (hm ▸ nofun), ?_⟩
    rw [causeRecord_held hm]
    exact hreset (.refl s _) rfl
  · exact congrArg Host.Outcome.next (pinReset_off hm)

end Sys2Proof.Machine
end

section
/-! Proofs: a step on a queue that is not empty (assumption 24). -/

namespace Sys2Proof.Machine

/-- Settles O1: with a command at its front, the queue selects the arm of `step` that runs the command. -/
theorem stepRunsFrontCommand : Obligations.StepRunsFrontCommand := by
  intro c rest s hfront
  unfold step
  rw [hfront]

end Sys2Proof.Machine
end
